-- ==== Sys2Proof/Word.lean ====
section
/-! DEFINITION. The words of the Macaroni PCU: 32-bit registers and 8-bit channels (spec/00_scope.md rule R6),
the 4-bit width field and 9-bit length and address fields (spec/30_encoding.md rules R62 to R64). -/

namespace Sys2Proof

/-- A register, a command word, a palette entry: XLEN = 32 bits (R6). -/
abbrev Word := BitVec 32

/-- One channel of a Color, or a scalar result: CH_BITS = 8 bits (R6). -/
abbrev Byte := BitVec 8

/-- A channel width as the command word carries it: a nibble, legal from 0 to 8 (R62, R63). -/
abbrev Width := BitVec 4

/-- A host word address: ADDR_BITS = 9 bits (R6, R42). -/
abbrev Addr := BitVec 9

end Sys2Proof
end

