-- ==== Sys2Proof/Config.lean ====
section
/-! DEFINITION. The implementation parameters of spec/00_scope.md rule R6: the fixed ones as values, the open ones as
opaque constants, of which nothing can be proved. ACK_LATENCY is read by no rule and stands nowhere (log 8). -/

namespace Sys2Proof.Config

/-- ID_VALUE, the constant the ID register reads as (R6, R21). -/
def idValue : Word := 0x4D430001

/-- PAL_ENTRIES, the number of entries of the palette RAM (R6, R15). -/
def palEntries : Nat := 256

/-- MAX_W, the largest channel width a command may name (R6, R62, R63). -/
def maxWidth : Width := 8

/-- LUMA_WEIGHTED(r, g, b), OPEN: a total function of its three arguments and of nothing else (R6, R97). A free value:
a statement that reaches it holds for every such function. -/
opaque lumaWeighted : Byte → Byte → Byte → Byte

/-- PAL_RESET(i), OPEN: what palette entry `i` holds after a reset until the host writes it (R6, R27, U3). A free value.
The first argument says WHICH reset: the palette's written entries at each earlier reset, newest first, so that what an
earlier reset left, or entries that survive a reset (R160), are among the draws this constant stands for (log 3). -/
opaque palReset : List (List (Nat × Word)) → Nat → Word

end Sys2Proof.Config
end

