-- ==== Sys2Proof/Syntax.lean ====
section
/-! DEFINITION. The commands of the Macaroni PCU as syntax: one constructor per row of spec/opcode_table.json, with the
immediates of spec/30_encoding.md rules R61 to R65. -/

namespace Sys2Proof

/-- The width tuple of format W, the document's `widths: {a,r,g,b}` (R63): alpha, red, green, blue. -/
structure Widths where
  a : Width
  r : Width
  g : Width
  b : Width
deriving DecidableEq, Repr

/-- The twelve commands (R66), in the order of their opcodes 0 to 11. -/
inductive Instr where
  /-- NOP (R130). -/
  | nop
  /-- RESCALE value, from, to (R82). -/
  | rescale (value : Byte) (fromW toW : Width)
  /-- PACK wa, wr, wg, wb (R85). -/
  | pack (w : Widths)
  /-- UNPACK wa, wr, wg, wb (R88). -/
  | unpack (w : Widths)
  /-- ENCODE wa, wr, wg, wb (R89). -/
  | encode (w : Widths)
  /-- DECODE wa, wr, wg, wb (R90). -/
  | decode (w : Widths)
  /-- LUMA (R96). -/
  | luma
  /-- SETPLEN n (R111). -/
  | setPlen (n : BitVec 9)
  /-- CLASSIFY (R114). -/
  | classify
  /-- MATCH (R119). -/
  | matchColor
  /-- LOOKUP (R121). -/
  | lookup
  /-- CLRERR (R131). -/
  | clrErr
deriving DecidableEq, Repr

end Sys2Proof
end

