-- ==== Sys2Proof/WellFormed.lean ====
section
/-! DEFINITION. Which command terms a legal word can stand for: the range checks of spec/30_encoding.md rules R62 to R64. -/

namespace Sys2Proof

/-- A channel width is 0 to 8 (R62, R63). -/
def Width.ok (w : Width) : Bool := decide (w ≤ Config.maxWidth)

/-- Each of the four widths is 0 to 8 (R63). -/
def Widths.ok (w : Widths) : Bool := Width.ok w.a && Width.ok w.r && Width.ok w.g && Width.ok w.b

/-- The immediates of a command lie in the ranges of R62 to R64. -/
def Instr.wellFormed : Instr → Bool
  | .nop => true
  | .rescale _ fromW toW => Width.ok fromW && Width.ok toW
  | .pack w => w.ok
  | .unpack w => w.ok
  | .encode w => w.ok
  | .decode w => w.ok
  | .luma => true
  | .setPlen n => decide (n ≤ 256)
  | .classify => true
  | .matchColor => true
  | .lookup => true
  | .clrErr => true

end Sys2Proof
end

