-- ==== Sys2Proof/Decode.lean ====
section
/-! DEFINITION. The decoder of spec/30_encoding.md rule R67, total on 32-bit words, and the encoder written from the
formats of rules R61 to R64. -/

namespace Sys2Proof

/-! ## Fields of a command word (R61 to R65) -/

/-- `op = w[3:0]` (R66). -/
def opField (w : Word) : BitVec 4 := w.extractLsb' 0 4

/-- `w[7:4]`, zero in every legal word (R67). -/
def lowReserved (w : Word) : BitVec 4 := w.extractLsb' 4 4

/-- `w[31:8]`, zero in format N (R61). -/
def reservedN (w : Word) : BitVec 24 := w.extractLsb' 8 24

/-- `w[31:24]`, zero in formats R and W (R62, R63). -/
def reservedRW (w : Word) : BitVec 8 := w.extractLsb' 24 8

/-- `w[31:17]`, zero in format P (R64). -/
def reservedP (w : Word) : BitVec 15 := w.extractLsb' 17 15

/-- `value = w[23:16]` (R65). -/
def valueField (w : Word) : Byte := w.extractLsb' 16 8

/-- `to = w[15:12]` (R65). -/
def toField (w : Word) : Width := w.extractLsb' 12 4

/-- `from = w[11:8]` (R65). -/
def fromField (w : Word) : Width := w.extractLsb' 8 4

/-- `wa = w[23:20]`, `wr = w[19:16]`, `wg = w[15:12]`, `wb = w[11:8]` (R65). -/
def widthsField (w : Word) : Widths :=
  { a := w.extractLsb' 20 4, r := w.extractLsb' 16 4, g := w.extractLsb' 12 4, b := w.extractLsb' 8 4 }

/-- `n = w[16:8]` (R65). -/
def lengthField (w : Word) : BitVec 9 := w.extractLsb' 8 9

/-! ## The decoder (R67); `none` is `illegal` -/

/-- Format N: every bit above the opcode is zero (R61). -/
def decodeN (w : Word) (i : Instr) : Option Instr := if reservedN w = 0 then some i else none

/-- Format R (R62). -/
def decodeR (w : Word) : Option Instr :=
  if reservedRW w = 0 then
    if Width.ok (fromField w) && Width.ok (toField w) then
      some (.rescale (valueField w) (fromField w) (toField w))
    else none
  else none

/-- Format W (R63), for the command `mk`. -/
def decodeW (w : Word) (mk : Widths → Instr) : Option Instr :=
  if reservedRW w = 0 then
    if (widthsField w).ok then some (mk (widthsField w)) else none
  else none

/-- Format P (R64). -/
def decodeP (w : Word) : Option Instr :=
  if reservedP w = 0 then
    if lengthField w ≤ 256 then some (.setPlen (lengthField w)) else none
  else none

/-- The opcode map (R66), after `w[7:4]` was found zero. -/
def decodeOp (w : Word) : Option Instr :=
  match (opField w).toNat with
  | 0 => decodeN w .nop
  | 1 => decodeR w
  | 2 => decodeW w .pack
  | 3 => decodeW w .unpack
  | 4 => decodeW w .encode
  | 5 => decodeW w .decode
  | 6 => decodeN w .luma
  | 7 => decodeP w
  | 8 => decodeN w .classify
  | 9 => decodeN w .matchColor
  | 10 => decodeN w .lookup
  | 11 => decodeN w .clrErr
  | _ => none

/-- The decoder (R67). It depends on the word alone. -/
def decode (w : Word) : Option Instr := if lowReserved w = 0 then decodeOp w else none

/-! ## The encoder (R61 to R64) -/

/-- A format N word: `op` alone (R61). -/
def encodeN (op : BitVec 4) : Word := 0#28 ++ op

/-- A format R word (R62). -/
def encodeR (value : Byte) (fromW toW : Width) : Word := 0#8 ++ value ++ toW ++ fromW ++ 0#4 ++ 1#4

/-- A format W word (R63). -/
def encodeW (w : Widths) (op : BitVec 4) : Word := 0#8 ++ w.a ++ w.r ++ w.g ++ w.b ++ 0#4 ++ op

/-- A format P word (R64). -/
def encodeP (n : BitVec 9) : Word := 0#15 ++ n ++ 0#4 ++ 7#4

/-- The opcode of a command (R66). -/
def Instr.op : Instr → BitVec 4
  | .nop => 0
  | .rescale _ _ _ => 1
  | .pack _ => 2
  | .unpack _ => 3
  | .encode _ => 4
  | .decode _ => 5
  | .luma => 6
  | .setPlen _ => 7
  | .classify => 8
  | .matchColor => 9
  | .lookup => 10
  | .clrErr => 11

/-- The word of a command (R61 to R64, R66). -/
def encode : Instr → Word
  | .nop => encodeN 0
  | .rescale value fromW toW => encodeR value fromW toW
  | .pack w => encodeW w 2
  | .unpack w => encodeW w 3
  | .encode w => encodeW w 4
  | .decode w => encodeW w 5
  | .luma => encodeN 6
  | .setPlen n => encodeP n
  | .classify => encodeN 8
  | .matchColor => encodeN 9
  | .lookup => encodeN 10
  | .clrErr => encodeN 11

/-- What the decoder reads from an instruction whose low `nbits` bits are those of `w` and whose other bits are zero:
commands are one 32-bit word (R60), so the word is handed to the decoder as it is. -/
def decodeTableWord (nbits w : Nat) : Option Instr := decode (BitVec.ofNat 32 (w % 2 ^ nbits))

end Sys2Proof
end

