-- ==== Sys2Proof/Machine/Operands.lean ====
section
/-! DEFINITION. Operand forms: the four channels of a 32-bit color (spec/10_state.md rule R11), all-ones masks
(spec/00_scope.md rule R7), the palette index in RAW (spec/41_palette.md rule R121), and RAW as the bytes of a packed pixel
(spec/20_memory.md rule R49). -/

namespace Sys2Proof.Machine

/-- The four 8-bit channels of a color, canonical or native-width (R9, R11). -/
structure Channels where
  a : Byte
  r : Byte
  g : Byte
  b : Byte
deriving DecidableEq, Repr

/-- The fields of a COLOR-shaped word: alpha 31:24, red 23:16, green 15:8, blue 7:0 (R11). -/
def channelsOf (c : Word) : Channels :=
  { a := c.extractLsb' 24 8, r := c.extractLsb' 16 8, g := c.extractLsb' 8 8, b := c.extractLsb' 0 8 }

/-- The COLOR-shaped word with these fields (R11): `{a, r, g, b}`. -/
def colorOf (c : Channels) : Word := c.a ++ c.r ++ c.g ++ c.b

/-- `ones(n) = 2^n - 1` (R7). -/
def ones (n : Nat) : Nat := 2 ^ n - 1

/-- `sq(x, y) = (x - y) * (x - y)` on integers (R7). -/
def sqDiff (x y : Byte) : Nat :=
  let d : Int := (x.toNat : Int) - (y.toNat : Int)
  (d * d).toNat

/-- The palette index LOOKUP reads: RAW[7:0] (R121). -/
def indexOf (raw : Word) : Byte := raw.extractLsb' 0 8

/-- Byte `j` of a packed pixel: RAW[8j+7 : 8j], byte 0 at the lowest buffer address (R49). -/
def rawByte (raw : Word) (j : Nat) : Byte := raw.extractLsb' (8 * j) 8

/-- The `k` buffer bytes of a packed pixel, lowest address first (R49). -/
def rawBytes (raw : Word) (k : Nat) : List Byte := (List.range k).map (rawByte raw)

/-- RAW assembled from the buffer bytes of a packed pixel, lowest address first, zero above them (R49). -/
def rawOfBytes : List Byte → Word
  | [] => 0
  | b :: bs => b.setWidth 32 ||| (rawOfBytes bs <<< 8)

end Sys2Proof.Machine
end

