-- ==== Sys2Proof/Machine/State.lean ====
section
/-! DEFINITION. The state of the PCU (spec/10_state.md rule R22), the host moves that drive it (spec/70_reset_and_hazards.md
rule R172), the state after reset (spec/10_state.md rule R27), and the reasons a step can stop. -/

namespace Sys2Proof.Machine

/-- The errors a command can raise (spec/60_exceptions.md rule R141). -/
inductive CmdError where
  /-- Code 1: the word written to CMD does not decode. -/
  | illegalCommand
  /-- Code 2: PLEN = 0 when the command needs a palette. -/
  | emptyPalette
  /-- Code 3: the scan skipped every entry. -/
  | noCandidate
deriving DecidableEq, Repr

/-- What a STATUS field records (R17, R141): code 0, or the code of an error. Codes 4 to 15 are never produced (U14), so
the field is an enumeration (log 6). -/
inductive StatusCode where
  /-- Code 0: the command completed (LAST), or none has failed (FIRST). -/
  | ok
  /-- The command failed with this error. -/
  | failed (e : CmdError)
deriving DecidableEq, Repr

/-- STATUS (R17). -/
structure Status where
  /-- Error code of the most recent command. -/
  last : StatusCode
  /-- Error code of the first command that failed since FIRST was last zero: sticky. -/
  first : StatusCode
deriving DecidableEq, Repr

/-- PCLASS (R19). -/
structure PClass where
  noAlpha : Bool
  oneBitAlpha : Bool
  valid : Bool
deriving DecidableEq, Repr

/-- PCLASS cleared: all three bits zero (R20). -/
def PClass.cleared : PClass := { noAlpha := false, oneBitAlpha := false, valid := false }

/-- The palette entries the host has written since the last reset: pairs of entry index and word, indexes strictly
rising (`Memory.wf`). The entry is the smallest unit the spec addresses (R42, R44; log 4). -/
abbrev Memory := List (Nat × Word)

/-- The host's moves, complete list (R172). An address is a word address and every transfer moves one word (R44), so a
narrow or misaligned transfer cannot be written down (R45). -/
inductive HostMove where
  /-- `rst_n` sampled low (R160). -/
  | reset
  /-- `MemRead(addr, 4)`. -/
  | read (addr : Addr)
  /-- `MemWrite(addr, 4, v)`; at CMD the word is executed as a command. -/
  | write (addr : Addr) (v : Word)
deriving DecidableEq, Repr

/-- The PCU's own state: all of R22, and palPast, the model's name for the draw of PAL_RESET in force (log 3). There is no
program counter (R14), CMD has no storage (R16) and ID is a constant (R21). Neither the parameters of R6 nor the host's
transfers are among its fields (R26). -/
structure Pcu where
  /-- COLOR (R11). -/
  color : Word
  /-- RAW (R12). -/
  raw : Word
  /-- VAL[7:0]; VAL[31:8] reads as zero (R13). -/
  val : Byte
  /-- PLEN[8:0] (R18). -/
  plen : BitVec 9
  /-- PCLASS (R19). -/
  pclass : PClass
  /-- STATUS (R17). -/
  status : Status
  /-- Palette RAM (R15): the entries written since the last reset; every other one reads as the free value PAL_RESET. -/
  pal : Memory
  /-- The model's own: `pal` as it was at each earlier reset, newest first; it names the draw of PAL_RESET (log 3). -/
  palPast : List Memory
deriving DecidableEq, Repr

/-- The PCU and its host, as the host's interface wants them in one state: the PCU's own state, and the model's own script
and reads (logs 1, 2). The step of R26, with the host's moves as its parameter and the PCU's own state alone, is `stepUnder`
in Machine/Port.lean. -/
structure State extends Pcu where
  /-- The model's own: the host moves to come, oldest first (log 1). -/
  script : List HostMove
  /-- The model's own: the words the host's reads returned, newest first (log 2). -/
  reads : List Word
deriving DecidableEq, Repr

/-- What stops the machine: nothing does ("no transfer is ever refused or left unanswered", R41; log 5). An error of a
command is a next state with STATUS written (R143), not a fault. -/
inductive Fault
deriving DecidableEq, Repr

/-- Why a command has no meaning. -/
inductive Refusal where
  /-- Raised by an arm of `exec` whose command is not modelled; every command is, so nothing raises it. Safe. -/
  | notModelled (mnemonic : String)
deriving DecidableEq, Repr

/-- The state after reset (R27): data registers, PLEN, PCLASS and STATUS zero; no palette entry written, so each reads as
PAL_RESET(i). The model's own fields are empty (logs 1 to 3). -/
def State.reset : State where
  color := 0
  raw := 0
  val := 0
  plen := 0
  pclass := PClass.cleared
  status := { last := .ok, first := .ok }
  pal := []
  palPast := []
  script := []
  reads := []

end Sys2Proof.Machine
end

