-- ==== Sys2Proof/Machine/Flags.lean ====
section
/-! DEFINITION. The flags: the words STATUS and PCLASS read as (spec/10_state.md rules R17, R19), the palette classification
that computes PCLASS (spec/41_palette.md rule R112), and the metric and filter it selects (rules R115, R117). -/

namespace Sys2Proof.Machine

/-- The code of an error (R141). -/
def CmdError.code : CmdError → BitVec 4
  | .illegalCommand => 1
  | .emptyPalette => 2
  | .noCandidate => 3

/-- A STATUS field as its four bits (R17, R141). -/
def StatusCode.code : StatusCode → BitVec 4
  | .ok => 0
  | .failed e => e.code

/-- The word STATUS reads as: LAST in 3:0, FIRST in 7:4, zero above (R17). -/
def Status.word (s : Status) : Word := 0#24 ++ s.first.code ++ s.last.code

/-- The word PCLASS reads as: NO_ALPHA in bit 0, ONE_BIT_ALPHA in bit 1, VALID in bit 2, zero above (R19). -/
def PClass.word (p : PClass) : Word :=
  0#29 ++ BitVec.ofBool p.valid ++ BitVec.ofBool p.oneBitAlpha ++ BitVec.ofBool p.noAlpha

/-- The alpha of a palette entry (R15). -/
def alphaOf (p : Word) : Byte := (channelsOf p).a

/-- `classify(P)`: `(no_alpha, one_bit_alpha)`, with the demotion of a palette that mixes alpha 0 and alpha 255
(R112; spec/90_conflicts.md C1). -/
def classify (P : List Word) : Bool × Bool :=
  let noAlpha := P.all fun p => alphaOf p == 255
  let oneBitAlpha := P.all fun p => alphaOf p == 0 || alphaOf p == 255
  if oneBitAlpha && P.any fun p => alphaOf p == 255 then (true, false) else (noAlpha, oneBitAlpha)

/-- PCLASS as CLASSIFY computes it from the palette (R114). -/
def classOf (P : List Word) : PClass :=
  { noAlpha := (classify P).1, oneBitAlpha := (classify P).2, valid := true }

/-- `rgb_only = no_alpha or one_bit_alpha` (R115). -/
def rgbOnly (P : List Word) : Bool := (classify P).1 || (classify P).2

/-- `skipped(s, p, one_bit_alpha)`: the alpha-bucket filter (R117). -/
def skipped (src p : Word) (oneBitAlpha : Bool) : Bool :=
  oneBitAlpha && ((decide (alphaOf src ≤ 127) && alphaOf p == 255) || (decide (alphaOf src > 127) && alphaOf p == 0))

end Sys2Proof.Machine
end

