-- ==== Sys2Proof/Machine/Ops.lean ====
section
/-! DEFINITION. The shared operations: register writes, the palette RAM (spec/10_state.md rules R15, R20, R27), completing a
command and raising an error (spec/30_encoding.md rule R72, spec/60_exceptions.md rule R143), the address map and host reads
(spec/20_memory.md rules R42, R43), and reset (spec/70_reset_and_hazards.md rule R160). -/

namespace Sys2Proof.Machine

/-! ## Registers -/

/-- `COLOR <- v`. -/
def State.setColor (s : State) (v : Word) : State := { s with color := v }

/-- `RAW <- v`. -/
def State.setRaw (s : State) (v : Word) : State := { s with raw := v }

/-- `VAL <- zext_32(v)`. -/
def State.setVal (s : State) (v : Byte) : State := { s with val := v }

/-- `PLEN <- n`. -/
def State.setPlen (s : State) (n : BitVec 9) : State := { s with plen := n }

/-- `PCLASS <- p`. -/
def State.setPclass (s : State) (p : PClass) : State := { s with pclass := p }

/-- `STATUS <- t`. -/
def State.setStatus (s : State) (t : Status) : State := { s with status := t }

/-- The palette cells replaced. -/
def State.setPal (s : State) (m : Memory) : State := { s with pal := m }

/-- The host moves still to come replaced (log 1). -/
def State.setScript (s : State) (ms : List HostMove) : State := { s with script := ms }

/-- The same PCU with another host side: these moves to come, these words read (logs 1, 2). -/
def State.withHost (s : State) (moves : List HostMove) (reads : List Word) : State :=
  { s with script := moves, reads := reads }

/-- One more word returned to the host (log 2). -/
def State.pushRead (s : State) (v : Word) : State := { s with reads := v :: s.reads }

/-! ## Palette RAM -/

/-- The word an entry was written with, if it was written. -/
def Memory.find : Memory → Nat → Option Word
  | [], _ => none
  | (k, v) :: m, i => if k = i then some v else Memory.find m i

/-- An entry written, the indexes kept rising. -/
def Memory.store : Memory → Nat → Word → Memory
  | [], i, x => [(i, x)]
  | (k, v) :: m, i, x =>
    if i < k then (i, x) :: (k, v) :: m else if i = k then (i, x) :: m else (k, v) :: Memory.store m i x

/-- Indexes at least `lo`, below 256 and strictly rising. -/
def Memory.wfFrom : Nat → Memory → Bool
  | _, [] => true
  | lo, (k, _) :: m => decide (lo ≤ k) && decide (k < Config.palEntries) && Memory.wfFrom (k + 1) m

/-- The canonical form: entry indexes in 0..255, strictly rising. An unwritten entry has no value of its own (it reads as a
free value), so no listed entry repeats one (log 4). -/
def Memory.wf (m : Memory) : Bool := Memory.wfFrom 0 m

/-- What an entry nothing has written since the last reset reads as: PAL_RESET(i) (R27, U3; log 3). -/
def State.palUnwritten (s : State) (i : Nat) : Word := Config.palReset s.palPast i

/-- `PAL[i]` (R15, R27). -/
def State.palAt (s : State) (i : Nat) : Word := (Memory.find s.pal i).getD (s.palUnwritten i)

/-- `PAL[i] <- v` and `PCLASS <- 0` (R20, R48). -/
def State.writePal (s : State) (i : Byte) (v : Word) : State :=
  (s.setPal (Memory.store s.pal i.toNat v)).setPclass PClass.cleared

/-- The palette the matcher sees: PAL[0], ..., PAL[PLEN-1] (R110). -/
def State.palette (s : State) : List Word := (List.range s.plen.toNat).map s.palAt

/-! ## Completing a command, and raising an error -/

/-- A completed command's `STATUS.LAST <- 0`; FIRST as it was (R72). -/
def State.complete (s : State) : State := s.setStatus { s.status with last := .ok }

/-- `if STATUS.FIRST == 0: STATUS.FIRST <- c` (R143). -/
def stickyFirst (first : StatusCode) (e : CmdError) : StatusCode :=
  match first with
  | .ok => .failed e
  | .failed f => .failed f

/-- `raise E`: LAST takes the code, FIRST takes it if it was zero, nothing else changes (R143). -/
def State.raise (s : State) (e : CmdError) : State :=
  s.setStatus { last := .failed e, first := stickyFirst s.status.first e }

/-- Executing a command (R72): `effect` is the state the command's own writes give, or the error its rule raises. On an
error nothing it would have written is written (R143). -/
def runCommand (s : State) (effect : Except CmdError State) : Host.Outcome State Fault Refusal :=
  match effect with
  | .ok t => .next t.complete
  | .error e => .next (s.raise e)

/-- IllegalCommand where an immediate is out of range, as each command's rule lists it (R82, R85, R88, R89, R90, R111). The
decoder rejects such a word first (R145), so a step never comes here with one (log 10). -/
def ifLegal (i : Instr) (t : State) : Except CmdError State :=
  if i.wellFormed then .ok t else .error .illegalCommand

/-! ## The address map (R42) -/

/-- What a word address of the port names. -/
inductive Target where
  | cmd
  | status
  | color
  | raw
  | val
  | plen
  | pclass
  | id
  | reserved
  | pal (i : Byte)
deriving DecidableEq, Repr

/-- The address map (R42): registers at 0 to 7, reserved to 0x0FF, `PAL[addr - 0x100]` above. -/
def target (addr : Addr) : Target :=
  if 0x100 ≤ addr then .pal (addr.extractLsb' 0 8)
  else
    match addr.toNat with
    | 0 => .cmd
    | 1 => .status
    | 2 => .color
    | 3 => .raw
    | 4 => .val
    | 5 => .plen
    | 6 => .pclass
    | 7 => .id
    | _ => .reserved

/-- The word a read of a target returns: registers zero-extended, CMD and reserved words zero (R16, R22, R43, R44). -/
def State.readTarget (s : State) : Target → Word
  | .cmd => 0
  | .status => s.status.word
  | .color => s.color
  | .raw => s.raw
  | .val => s.val.setWidth 32
  | .plen => s.plen.setWidth 32
  | .pclass => s.pclass.word
  | .id => Config.idValue
  | .reserved => 0
  | .pal i => s.palAt i.toNat

/-- `MemRead(addr, 4)` (R42, R43). -/
def State.readWord (s : State) (addr : Addr) : Word := s.readTarget (target addr)

/-! ## Reset -/

/-- Reset (R27, R160): every register to its reset value, no palette entry written, a new draw of PAL_RESET. What belongs to
the host, its script and the words it read, stays. -/
def State.afterReset (s : State) : State :=
  { State.reset with palPast := s.pal :: s.palPast, script := s.script, reads := s.reads }

end Sys2Proof.Machine
end

