-- ==== Sys2Proof/Machine/Conversion.lean ====
section
/-! DEFINITION. The channel conversion commands RESCALE, PACK, UNPACK, ENCODE, DECODE, LUMA (spec/40_channel_conversion.md)
and the functions they are made of. -/

namespace Sys2Proof.Machine

/-- The rounded quotient of R80: `floor((v * TO + floor(FROM / 2)) / FROM)` with `FROM = ones(f)`, `TO = ones(t)`. -/
def scale (v f t : Nat) : Nat := (v * ones t + ones f / 2) / ones f

/-- `rescale(v, f, t)` (R80): 255 when either channel is absent. On R80's domain (`v` at most `ones(f)`, widths to 8) the
quotient fits 8 bits; narrowing it elsewhere is the model's (log 11). -/
def rescale (v : Byte) (f t : Width) : Byte :=
  if f = 0 ∨ t = 0 then 255 else BitVec.ofNat 8 (scale v.toNat f.toNat t.toNat)

/-- The low `w` bits of a channel: `v & ones(w)` (R83, R84). -/
def lowBits (v : Byte) (w : Width) : Byte := v &&& BitVec.ofNat 8 (ones w.toNat)

/-- `pack` (R84): the channels cut to their widths and concatenated, alpha most significant. -/
def pack (c : Channels) (w : Widths) : Word :=
  BitVec.ofNat 32
    (((c.a.toNat &&& ones w.a.toNat) <<< (w.r.toNat + w.g.toNat + w.b.toNat)) |||
     ((c.r.toNat &&& ones w.r.toNat) <<< (w.g.toNat + w.b.toNat)) |||
     ((c.g.toNat &&& ones w.g.toNat) <<< w.b.toNat) |||
      (c.b.toNat &&& ones w.b.toNat))

/-- `unpack` (R87): the native-width channels of a container, zero-extended to 8 bits (R88). -/
def unpack (raw : Word) (w : Widths) : Channels where
  a := BitVec.ofNat 8 ((raw.toNat >>> (w.r.toNat + w.g.toNat + w.b.toNat)) &&& ones w.a.toNat)
  r := BitVec.ofNat 8 ((raw.toNat >>> (w.g.toNat + w.b.toNat)) &&& ones w.r.toNat)
  g := BitVec.ofNat 8 ((raw.toNat >>> w.b.toNat) &&& ones w.g.toNat)
  b := BitVec.ofNat 8 (raw.toNat &&& ones w.b.toNat)

/-- Canonical channels to native widths: `rescale(c, 8, w)` each (R89). -/
def toNative (c : Channels) (w : Widths) : Channels :=
  { a := rescale c.a 8 w.a, r := rescale c.r 8 w.r, g := rescale c.g 8 w.g, b := rescale c.b 8 w.b }

/-- Native-width channels to canonical: `rescale(c, w, 8)` each; an absent channel gives 255 (R90, R91). -/
def toCanonical (c : Channels) (w : Widths) : Channels :=
  { a := rescale c.a w.a 8, r := rescale c.r w.r 8, g := rescale c.g w.g 8, b := rescale c.b w.b 8 }

/-- The luma of a color (R95, R96): the shared value of a gray color, LUMA_WEIGHTED of any other (R97, a free value). -/
def luma (c : Channels) : Byte :=
  if c.r = c.g ∧ c.g = c.b then c.r else Config.lumaWeighted c.r c.g c.b

/-- RESCALE (R82, R83). -/
def execRescale (value : Byte) (fromW toW : Width) (s : State) : Host.Outcome State Fault Refusal :=
  runCommand s (ifLegal (.rescale value fromW toW) (s.setVal (rescale (lowBits value fromW) fromW toW)))

/-- PACK (R85). -/
def execPack (w : Widths) (s : State) : Host.Outcome State Fault Refusal :=
  runCommand s (ifLegal (.pack w) (s.setRaw (pack (channelsOf s.color) w)))

/-- UNPACK (R88). -/
def execUnpack (w : Widths) (s : State) : Host.Outcome State Fault Refusal :=
  runCommand s (ifLegal (.unpack w) (s.setColor (colorOf (unpack s.raw w))))

/-- ENCODE (R89). -/
def execEncode (w : Widths) (s : State) : Host.Outcome State Fault Refusal :=
  runCommand s (ifLegal (.encode w) (s.setRaw (pack (toNative (channelsOf s.color) w) w)))

/-- DECODE (R90). -/
def execDecode (w : Widths) (s : State) : Host.Outcome State Fault Refusal :=
  runCommand s (ifLegal (.decode w) (s.setColor (colorOf (toCanonical (unpack s.raw w) w))))

/-- LUMA (R96). -/
def execLuma (s : State) : Host.Outcome State Fault Refusal :=
  runCommand s (.ok (s.setVal (luma (channelsOf s.color))))

end Sys2Proof.Machine
end

