-- ==== Sys2Proof/Machine/Palette.lean ====
section
/-! DEFINITION. The palette commands SETPLEN, CLASSIFY, MATCH, LOOKUP (spec/41_palette.md) and the matcher they are made of. -/

namespace Sys2Proof.Machine

/-- `dist_rgb(s, p)` (R116). -/
def distRgb (src p : Word) : Nat :=
  sqDiff (channelsOf src).r (channelsOf p).r + sqDiff (channelsOf src).g (channelsOf p).g +
    sqDiff (channelsOf src).b (channelsOf p).b

/-- `dist_argb(s, p)` (R116). -/
def distArgb (src p : Word) : Nat :=
  sqDiff (channelsOf src).a (channelsOf p).a + sqDiff (channelsOf src).r (channelsOf p).r +
    sqDiff (channelsOf src).g (channelsOf p).g + sqDiff (channelsOf src).b (channelsOf p).b

/-- The distance under the metric selected (R115, R116). -/
def dist (rgb : Bool) (src p : Word) : Nat := if rgb then distRgb src p else distArgb src p

/-- `best == none or d < bestd` (R118). -/
def improves (best : Option (Nat × Nat)) (d : Nat) : Bool :=
  match best with
  | none => true
  | some (_, bestd) => decide (d < bestd)

/-- One round of the scan at index `i`: a skipped entry leaves the best pair (index, distance) alone, another replaces it
when strictly nearer (R118). -/
def scanStep (src : Word) (oneBitAlpha rgb : Bool) (i : Nat) (p : Word) (best : Option (Nat × Nat)) : Option (Nat × Nat) :=
  if skipped src p oneBitAlpha then best
  else if improves best (dist rgb src p) then some (i, dist rgb src p)
  else best

/-- The scan in index order, from index `i` on (R118). -/
def scan (src : Word) (oneBitAlpha rgb : Bool) : Nat → List Word → Option (Nat × Nat) → Option (Nat × Nat)
  | _, [], best => best
  | i, p :: ps, best => scan src oneBitAlpha rgb (i + 1) ps (scanStep src oneBitAlpha rgb i p best)

/-- `nearest(s, P, n)`: the index of the nearest entry not skipped, or none (R118). -/
def nearest (src : Word) (P : List Word) : Option Nat :=
  (scan src (classify P).2 (rgbOnly P) 0 P none).map Prod.fst

/-- What CLASSIFY does: `raise EmptyPalette` or write PCLASS (R114). -/
def classifyEffect (s : State) : Except CmdError State :=
  if s.plen = 0 then .error .emptyPalette else .ok (s.setPclass (classOf s.palette))

/-- What MATCH does: `raise EmptyPalette`, `raise NoCandidate`, or write the index to RAW (R119). -/
def matchEffect (s : State) : Except CmdError State :=
  if s.plen = 0 then .error .emptyPalette
  else
    match nearest s.color s.palette with
    | none => .error .noCandidate
    | some best => .ok (s.setRaw (BitVec.ofNat 32 best))

/-- SETPLEN (R111): PLEN written and PCLASS cleared. -/
def execSetPlen (n : BitVec 9) (s : State) : Host.Outcome State Fault Refusal :=
  runCommand s (ifLegal (.setPlen n) ((s.setPlen n).setPclass PClass.cleared))

/-- CLASSIFY (R114). -/
def execClassify (s : State) : Host.Outcome State Fault Refusal :=
  runCommand s (classifyEffect s)

/-- MATCH (R119). -/
def execMatch (s : State) : Host.Outcome State Fault Refusal :=
  runCommand s (matchEffect s)

/-- LOOKUP (R121): `COLOR <- PAL[RAW[7:0]]`, whatever PLEN is. -/
def execLookup (s : State) : Host.Outcome State Fault Refusal :=
  runCommand s (.ok (s.setColor (s.palAt (indexOf s.raw).toNat)))

end Sys2Proof.Machine
end

