-- ==== Sys2Proof/Machine/System.lean ====
section
/-! DEFINITION. The system commands NOP and CLRERR (spec/42_system.md). -/

namespace Sys2Proof.Machine

/-- NOP (R130): nothing but `STATUS.LAST <- 0`, as for every completed command. -/
def execNop (s : State) : Host.Outcome State Fault Refusal :=
  runCommand s (.ok s)

/-- CLRERR (R131): both fields of STATUS cleared. -/
def execClrErr (s : State) : Host.Outcome State Fault Refusal :=
  runCommand s (.ok (s.setStatus { last := .ok, first := .ok }))

end Sys2Proof.Machine
end

