-- ==== Sys2Proof/Machine/Dispatch.lean ====
section
/-! DEFINITION. The dispatch of a decoded command to its meaning (spec/30_encoding.md rules R66, R72). -/

namespace Sys2Proof.Machine

def exec (i : Instr) (s : State) : Host.Outcome State Fault Refusal :=
  match i with
  | .nop => Sys2Proof.Machine.execNop s
  | .rescale value fromW toW => Sys2Proof.Machine.execRescale value fromW toW s
  | .pack w => Sys2Proof.Machine.execPack w s
  | .unpack w => Sys2Proof.Machine.execUnpack w s
  | .encode w => Sys2Proof.Machine.execEncode w s
  | .decode w => Sys2Proof.Machine.execDecode w s
  | .luma => Sys2Proof.Machine.execLuma s
  | .setPlen n => Sys2Proof.Machine.execSetPlen n s
  | .classify => Sys2Proof.Machine.execClassify s
  | .matchColor => Sys2Proof.Machine.execMatch s
  | .lookup => Sys2Proof.Machine.execLookup s
  | .clrErr => Sys2Proof.Machine.execClrErr s

end Sys2Proof.Machine
end

