-- ==== Sys2Proof/Machine/Port.lean ====
section
/-! DEFINITION. The host port: what each host move does (spec/20_memory.md rules R41 to R48, spec/30_encoding.md rule R72,
spec/70_reset_and_hazards.md rules R160, R172), and the step and the run of the PCU alone, with the host's transfers as their
parameter (spec/10_state.md rule R26, spec/70_reset_and_hazards.md rule R171). -/

namespace Sys2Proof.Machine

/-- A word written to CMD: decoded and executed at once, or IllegalCommand (R67, R72). -/
def execWord (w : Word) (s : State) : Host.Outcome State Fault Refusal :=
  match decode w with
  | some i => exec i s
  | none => .next (s.raise .illegalCommand)

/-- The effect of a host write at a target (R48): CMD executes, COLOR and RAW take the word, a palette entry takes it and
clears PCLASS, everything else ignores it. -/
def writeTarget (t : Target) (v : Word) (s : State) : Host.Outcome State Fault Refusal :=
  match t with
  | .cmd => execWord v s
  | .status => .next s
  | .color => .next (s.setColor v)
  | .raw => .next (s.setRaw v)
  | .val => .next s
  | .plen => .next s
  | .pclass => .next s
  | .id => .next s
  | .reserved => .next s
  | .pal i => .next (s.writePal i v)

/-- `MemWrite(addr, 4, v)` (R48). -/
def writeWord (addr : Addr) (v : Word) (s : State) : Host.Outcome State Fault Refusal :=
  writeTarget (target addr) v s

/-- One host move, complete and indivisible (R41, R46). A read changes nothing but what the host has read (R47). -/
def perform (m : HostMove) (s : State) : Host.Outcome State Fault Refusal :=
  match m with
  | .reset => .next s.afterReset
  | .read addr => .next (s.pushRead (s.readWord addr))
  | .write addr v => writeWord addr v s

/-- The step of R26: a function of the host's move, its parameter, and of the PCU's own state, which holds no transfer. It
answers the new state and the words the move returned to the host (one for a read, none for another move). -/
def stepUnder (m : HostMove) (p : Pcu) : Host.Outcome (Pcu × List Word) Fault Refusal :=
  match perform m { toPcu := p, script := [], reads := [] } with
  | .next t => .next (t.toPcu, t.reads)
  | .fault r => .fault r
  | .refused r => .refused r

/-- A run of the PCU under a sequence of transfers: the final state and the words read, in the order read (R26, R51, R171). -/
def runUnder : List HostMove → Pcu → Host.Outcome (Pcu × List Word) Fault Refusal
  | [], p => .next (p, [])
  | m :: ms, p =>
    match stepUnder m p with
    | .next (q, words) =>
      match runUnder ms q with
      | .next (q', words') => .next (q', words ++ words')
      | .fault r => .fault r
      | .refused r => .refused r
    | .fault r => .fault r
    | .refused r => .refused r

/-- The word address of CMD (R16). -/
def cmdAddr : Addr := 0

/-- The host move that issues the command word whose low `nbits` bits are those of `w` and whose other bits are zero: a
write to CMD (R60, R72). -/
def commandMove (nbits w : Nat) : HostMove := .write cmdAddr (BitVec.ofNat 32 (w % 2 ^ nbits))

end Sys2Proof.Machine
end

