-- ==== Sys2Proof/Machine/Step.lean ====
section
/-! DEFINITION. One step: the next host move takes effect; with none to come the PCU is idle and stable
(spec/70_reset_and_hazards.md rule R171; logs 1, 7). -/

namespace Sys2Proof.Machine

/-- One step. -/
def step (s : State) : Host.Outcome State Fault Refusal :=
  match s.script with
  | [] => .next s
  | m :: rest => perform m (s.setScript rest)

/-- The state with a write of this word to CMD as its very next host move: there is no instruction memory and no fetch
(R14, R54), and a command runs because the host writes it (log 9). -/
def State.withFetchWord (s : State) (nbits w : Nat) : State := s.setScript (commandMove nbits w :: s.script)

end Sys2Proof.Machine
end

