-- ==== Sys2Proof/Machine/Script.lean ====
section
/-! DEFINITION. The host-script lines and pseudo-instructions of spec/30_encoding.md rules R70 and R71, as terms, with the host
move each one stands for, and the per-color transfer sequences of spec/41_palette.md rule R124 and
spec/70_reset_and_hazards.md rule R168. Characters and numerals are left out: a line is the term a parser would give (log 12). -/

namespace Sys2Proof.Machine

/-- The register names of a script line (R70, R42). -/
inductive RegName where
  | cmd
  | status
  | color
  | raw
  | val
  | plen
  | pclass
  | id
  | pal (i : Byte)
deriving DecidableEq, Repr

/-- The word address of a register name (R42, R70). -/
def RegName.addr : RegName → Addr
  | .cmd => 0
  | .status => 1
  | .color => 2
  | .raw => 3
  | .val => 4
  | .plen => 5
  | .pclass => 6
  | .id => 7
  | .pal i => 0x100#9 ||| i.setWidth 9

/-- The width commands, which the pseudo-instructions abbreviate (R71). -/
inductive WidthOp where
  | pack
  | unpack
  | encode
  | decode
deriving DecidableEq, Repr

/-- The command of a width operation (R71). -/
def WidthOp.instr : WidthOp → Widths → Instr
  | .pack, w => .pack w
  | .unpack, w => .unpack w
  | .encode, w => .encode w
  | .decode, w => .decode w

/-- The layout suffixes of a pseudo-instruction (R71): the three named layouts, and four digits. -/
inductive Layout where
  | r5g6b5
  | a1r5g5b5
  | a4r4g4b4
  | digits (d1 d2 d3 d4 : Width)
deriving DecidableEq, Repr

/-- The width tuple of a layout suffix (R71, R93). -/
def Layout.widths : Layout → Widths
  | .r5g6b5 => { a := 0, r := 5, g := 6, b := 5 }
  | .a1r5g5b5 => { a := 1, r := 5, g := 5, b := 5 }
  | .a4r4g4b4 => { a := 4, r := 4, g := 4, b := 4 }
  | .digits d1 d2 d3 d4 => { a := d1, r := d2, g := d3, b := d4 }

/-- One line of a host script (R70, R71). -/
inductive ScriptLine where
  /-- `WR <reg>, <value>`. -/
  | wr (reg : RegName) (v : Word)
  /-- `RD <reg>`. -/
  | rd (reg : RegName)
  /-- `<MNEMONIC> <operands>`. -/
  | command (i : Instr)
  /-- `<OP>.<layout>`. -/
  | layoutOp (op : WidthOp) (l : Layout)
  /-- `SETPAL i, v`. -/
  | setPal (i : Byte) (v : Word)
  /-- `SETCOLOR a, r, g, b`. -/
  | setColor (a r g b : Byte)
deriving DecidableEq, Repr

/-- The move that writes a command's word to CMD; operands out of range are rejected (R70). -/
def assembleCommand (i : Instr) : Option HostMove :=
  if i.wellFormed then some (.write cmdAddr (encode i)) else none

/-- The host move of a script line (R70, R71). A raw `WR CMD` can write any word. -/
def assemble : ScriptLine → Option HostMove
  | .wr reg v => some (.write reg.addr v)
  | .rd reg => some (.read reg.addr)
  | .command i => assembleCommand i
  | .layoutOp op l => assembleCommand (op.instr l.widths)
  | .setPal i v => some (.write (RegName.addr (.pal i)) v)
  | .setColor a r g b => some (.write (RegName.addr .color) (colorOf { a := a, r := r, g := g, b := b }))

/-- `WR COLOR, c; <command>; RD RAW`, for each color in order (R124, R168). -/
def colorPass (i : Instr) (colors : List Word) : List ScriptLine :=
  colors.flatMap fun c => [.wr .color c, .command i, .rd .raw]

/-- The matcher over a sequence of colors (R124). -/
def matchPass (colors : List Word) : List ScriptLine := colorPass .matchColor colors

/-- The encode of a pixel sequence through a width tuple (R168). -/
def encodePass (w : Widths) (colors : List Word) : List ScriptLine := colorPass (.encode w) colors

/-- `WR RAW, raw; DECODE w; RD COLOR`, for each packed pixel in order (R168). -/
def decodePass (w : Widths) (pixels : List Word) : List ScriptLine :=
  pixels.flatMap fun p => [.wr .raw p, .command (.decode w), .rd .color]

/-- `WR RAW, index; LOOKUP; RD COLOR`, for each index byte in order (R168). -/
def lookupPass (indexes : List Byte) : List ScriptLine :=
  indexes.flatMap fun i => [.wr .raw (i.setWidth 32), .command .lookup, .rd .color]

end Sys2Proof.Machine
end

