-- ==== Sys2Proof/Safety.lean ====
section
/-! DEFINITION. What a good state is, in the terms the statements use: the relations between fields that the spec derives
and that every step must keep (spec/10_state.md rules R18, R19, R20; spec/60_exceptions.md rule R143). -/

namespace Sys2Proof.Machine

/-- PCLASS is either clear, or VALID with the classification of the palette as it is now, which is then not empty
(R19, R20, R114). -/
def State.ClassCurrent (s : State) : Prop :=
  s.pclass = PClass.cleared ∨ (s.plen ≠ 0 ∧ s.pclass = classOf s.palette)

/-- The invariant of the PCU: the palette cells are in canonical form (log 4), PLEN is at most 256 (R18), PCLASS is clear
or current (R20), and a recorded LAST has a recorded FIRST (R143). -/
structure State.Inv (s : State) : Prop where
  palCanonical : Memory.wf s.pal = true
  plenBound : s.plen ≤ 256
  classCurrent : s.ClassCurrent
  firstRecorded : s.status.last ≠ .ok → s.status.first ≠ .ok

end Sys2Proof.Machine
end

