-- ==== Sys2Proof/Certificates/Slice0/Obligations.lean ====
section
/-! DEFINITION. The statements for the provers, rule by rule of spec/. The helpers under Sys2Proof.Spec write a rule's own
words in plain arithmetic, apart from the model's functions. -/

namespace Sys2Proof.Spec

open Sys2Proof.Machine

/-- The illegal encodings, complete list, as R68 gives them, on the word as a number. -/
abbrev Illegal (w : Word) : Prop :=
  w.toNat / 2 ^ 4 % 16 ≠ 0 ∨ 12 ≤ w.toNat % 16 ∨
  (w.toNat % 16 ∈ [0, 6, 8, 9, 10, 11] ∧ w.toNat / 2 ^ 8 ≠ 0) ∨
  (w.toNat % 16 ∈ [1, 2, 3, 4, 5] ∧ w.toNat / 2 ^ 24 ≠ 0) ∨
  (w.toNat % 16 = 1 ∧ (8 < w.toNat / 2 ^ 8 % 16 ∨ 8 < w.toNat / 2 ^ 12 % 16)) ∨
  (w.toNat % 16 ∈ [2, 3, 4, 5] ∧ (8 < w.toNat / 2 ^ 8 % 16 ∨ 8 < w.toNat / 2 ^ 12 % 16 ∨ 8 < w.toNat / 2 ^ 16 % 16 ∨
    8 < w.toNat / 2 ^ 20 % 16)) ∨
  (w.toNat % 16 = 7 ∧ (w.toNat / 2 ^ 17 ≠ 0 ∨ 256 < w.toNat / 2 ^ 8 % 512))

/-- A width tuple with every width 0 to 8 (R63). -/
abbrev Legal (w : Widths) : Prop := w.a ≤ 8 ∧ w.r ≤ 8 ∧ w.g ≤ 8 ∧ w.b ≤ 8

/-- The format W word of R70: `(wa << 20) | (wr << 16) | (wg << 12) | (wb << 8) | op`, the fields being disjoint. -/
def wordW (w : Widths) (op : Nat) : Word :=
  BitVec.ofNat 32 (w.a.toNat * 2 ^ 20 + w.r.toNat * 2 ^ 16 + w.g.toNat * 2 ^ 12 + w.b.toNat * 2 ^ 8 + op)

/-- The opcode of a width operation (R66). -/
def opOf : WidthOp → Nat
  | .pack => 2
  | .unpack => 3
  | .encode => 4
  | .decode => 5

/-- A command that completes: STATUS.LAST zero, FIRST as it was (R72). -/
def done (s : State) : State := { s with status := { s.status with last := .ok } }

/-- `raise E` (R143): LAST the code, FIRST the code if it was zero, nothing else. -/
def raised (e : CmdError) (s : State) : State :=
  { s with status := { last := .failed e, first := if s.status.first = .ok then .failed e else s.status.first } }

/-- Every other word whose `op` is this one is illegal: executing it raises IllegalCommand (R68, R72). -/
def OtherWordsRaise (op : Nat) (legal : Word → Prop) : Prop :=
  ∀ (s : State) (v : Word), v.toNat % 16 = op → ¬legal v → execWord v s = .next (raised .illegalCommand s)

/-- The codes of R141. -/
def code : StatusCode → Nat
  | .ok => 0
  | .failed .illegalCommand => 1
  | .failed .emptyPalette => 2
  | .failed .noCandidate => 3

/-- The model's own fields are as before: the host's script, the words it has read, and the draw of PAL_RESET (logs 1 to
3). -/
def SameHost (s t : State) : Prop := t.script = s.script ∧ t.reads = s.reads ∧ t.palPast = s.palPast

/-- Every palette entry reads as before. -/
def SamePal (s t : State) : Prop := ∀ i, t.palAt i = s.palAt i

/-- COLOR, RAW, VAL, PLEN, PCLASS and every PAL[i] keep their values (R143). -/
def SameButStatus (s t : State) : Prop :=
  t.color = s.color ∧ t.raw = s.raw ∧ t.val = s.val ∧ t.plen = s.plen ∧ t.pclass = s.pclass ∧ SamePal s t ∧ SameHost s t

/-- FIRST after a command other than CLRERR: untouched when it completes (R72), sticky when it fails (R143). -/
def FirstRule (s t : State) : Prop :=
  (t.status.last = .ok → t.status.first = s.status.first) ∧
  (t.status.last ≠ .ok → t.status.first = if s.status.first = .ok then t.status.last else s.status.first)

/-- The channels of a color as numbers (R11). -/
def alpha (c : Word) : Nat := c.toNat / 2 ^ 24
def red (c : Word) : Nat := c.toNat / 2 ^ 16 % 256
def green (c : Word) : Nat := c.toNat / 2 ^ 8 % 256
def blue (c : Word) : Nat := c.toNat % 256

/-- `sq(x, y)` on integers (R7). -/
def sqInt (x y : Nat) : Int := ((x : Int) - y) * ((x : Int) - y)

/-- The two distances of R116. -/
def distance (rgb : Bool) (c p : Word) : Int :=
  (if rgb then 0 else sqInt (alpha c) (alpha p)) + sqInt (red c) (red p) + sqInt (green c) (green p) +
    sqInt (blue c) (blue p)

/-- Every alpha of PAL[0 .. PLEN-1] is 0 or 255. -/
abbrev Binary (s : State) : Prop := ∀ i, i < s.plen.toNat → alpha (s.palAt i) = 0 ∨ alpha (s.palAt i) = 255

/-- Every alpha of PAL[0 .. PLEN-1] is 0. -/
abbrev Transparent (s : State) : Prop := ∀ i, i < s.plen.toNat → alpha (s.palAt i) = 0

/-- Some alpha of PAL[0 .. PLEN-1] is 255. -/
abbrev SomeOpaque (s : State) : Prop := ∃ i, i < s.plen.toNat ∧ alpha (s.palAt i) = 255

/-- Entry `i` is a candidate for COLOR: below PLEN and not skipped by the alpha-bucket filter, which acts only on a palette
whose final classification is one-bit-alpha (R113, R117). -/
abbrev Candidate (s : State) (i : Nat) : Prop :=
  i < s.plen.toNat ∧
    ¬(Transparent s ∧ ((alpha s.color ≤ 127 ∧ alpha (s.palAt i) = 255) ∨ (127 < alpha s.color ∧ alpha (s.palAt i) = 0)))

end Sys2Proof.Spec

open Sys2Proof Sys2Proof.Machine Sys2Proof.Spec

/-! ## Encoding -/

/-- Decoding the word of a well-formed command gives the command back, whatever its immediates (R61 to R67). -/
def Obligations.DecodeInvertsEncode : Prop :=
  ∀ i : Instr, i.wellFormed = true → Sys2Proof.decode (Sys2Proof.encode i) = some i

/-- Every word that decodes is the one word of its command, and the command is well-formed: no two words share a meaning
(R67, R69). -/
def Obligations.DecodedCommandReencodesToItsWord : Prop :=
  ∀ (w : Word) (i : Instr), Sys2Proof.decode w = some i → i.wellFormed = true ∧ Sys2Proof.encode i = w

/-- R68: the complete list of illegal words, and what executing one does. -/
def Obligations.IllegalWordsAreTheListedOnesAndRaise : Prop :=
  ∀ w : Word, (Sys2Proof.decode w = none ↔ Illegal w) ∧
    ∀ s : State, Illegal w → ∃ t, writeWord 0 w s = .next t ∧ SameButStatus s t ∧ code t.status.last = 1 ∧
      (t.readWord 1).toNat % 16 = 1

/-- Words written out in the spec (R70, R71, test vectors 2.3 to 2.10) decode as it says: a sanity statement. -/
def Obligations.WordsOfTheSpecDecodeAsWritten : Prop :=
  Sys2Proof.decode 0x00000000 = some .nop ∧ Sys2Proof.decode 0x00118501 = some (.rescale 17 5 8) ∧
  Sys2Proof.decode 0x00056502 = some (.pack ⟨0, 5, 6, 5⟩) ∧ Sys2Proof.decode 0x00155503 = some (.unpack ⟨1, 5, 5, 5⟩) ∧
  Sys2Proof.decode 0x00444404 = some (.encode ⟨4, 4, 4, 4⟩) ∧ Sys2Proof.decode 0x00088805 = some (.decode ⟨0, 8, 8, 8⟩) ∧
  Sys2Proof.decode 0x00000006 = some .luma ∧ Sys2Proof.decode 0x00010007 = some (.setPlen 256) ∧
  Sys2Proof.decode 0x00000008 = some .classify ∧ Sys2Proof.decode 0x00000009 = some .matchColor ∧
  Sys2Proof.decode 0x0000000A = some .lookup ∧ Sys2Proof.decode 0x0000000B = some .clrErr ∧
  Sys2Proof.decode 0x00056514 = none ∧ Sys2Proof.decode 0x00010107 = none ∧ Sys2Proof.decode 0x0000000C = none

/-- R70, R71: the word of every mnemonic, the assembler's refusal of operands out of range, the WR and RD lines of every
register name, and the expansion of every pseudo-instruction. That a line is a term and not text is the model's choice
(log 12). -/
def Obligations.AssembledWordsFollowTheTable : Prop :=
  (Sys2Proof.encode .nop = 0x00000000 ∧ Sys2Proof.encode .luma = 0x00000006 ∧ Sys2Proof.encode .classify = 0x00000008 ∧
    Sys2Proof.encode .matchColor = 0x00000009 ∧ Sys2Proof.encode .lookup = 0x0000000A ∧
    Sys2Proof.encode .clrErr = 0x0000000B) ∧
  (∀ (value : Byte) (f t : Width), (Sys2Proof.encode (.rescale value f t)).toNat =
    (value.toNat <<< 16) ||| (t.toNat <<< 12) ||| (f.toNat <<< 8) ||| 1) ∧
  (∀ w : Widths, Sys2Proof.encode (.pack w) = wordW w 2 ∧ Sys2Proof.encode (.unpack w) = wordW w 3 ∧
    Sys2Proof.encode (.encode w) = wordW w 4 ∧ Sys2Proof.encode (.decode w) = wordW w 5) ∧
  (∀ n : BitVec 9, (Sys2Proof.encode (.setPlen n)).toNat = (n.toNat <<< 8) ||| 7) ∧
  (∀ i : Instr, i.wellFormed = true → assemble (.command i) = some (.write 0 (Sys2Proof.encode i))) ∧
  (∀ i : Instr, i.wellFormed = false → assemble (.command i) = none) ∧
  (∀ op : WidthOp, assemble (.layoutOp op .r5g6b5) = some (.write 0 (wordW ⟨0, 5, 6, 5⟩ (opOf op))) ∧
    assemble (.layoutOp op .a1r5g5b5) = some (.write 0 (wordW ⟨1, 5, 5, 5⟩ (opOf op))) ∧
    assemble (.layoutOp op .a4r4g4b4) = some (.write 0 (wordW ⟨4, 4, 4, 4⟩ (opOf op))) ∧
    ∀ d1 d2 d3 d4 : Width,
      (Legal ⟨d1, d2, d3, d4⟩ →
        assemble (.layoutOp op (.digits d1 d2 d3 d4)) = some (.write 0 (wordW ⟨d1, d2, d3, d4⟩ (opOf op)))) ∧
      (¬Legal ⟨d1, d2, d3, d4⟩ → assemble (.layoutOp op (.digits d1 d2 d3 d4)) = none)) ∧
  assemble (.layoutOp .encode .r5g6b5) = some (.write 0 0x00056504) ∧
  assemble (.layoutOp .encode .a1r5g5b5) = some (.write 0 0x00155504) ∧
  assemble (.layoutOp .encode .a4r4g4b4) = some (.write 0 0x00444404) ∧
  assemble (.layoutOp .decode (.digits 8 8 8 8)) = some (.write 0 0x00888805) ∧
  assemble (.layoutOp .encode (.digits 8 0 0 0)) = some (.write 0 0x00800004) ∧
  assemble (.layoutOp .decode (.digits 0 8 8 8)) = some (.write 0 0x00088805) ∧
  (∀ p ∈ [(RegName.cmd, (0 : Addr)), (.status, 1), (.color, 2), (.raw, 3), (.val, 4), (.plen, 5), (.pclass, 6), (.id, 7)],
    assemble (.rd p.1) = some (.read p.2) ∧ ∀ v : Word, assemble (.wr p.1 v) = some (.write p.2 v)) ∧
  (∀ (i : Byte) (v : Word), ∃ a : Addr, a.toNat = 256 + i.toNat ∧ assemble (.setPal i v) = some (.write a v) ∧
    assemble (.wr (.pal i) v) = some (.write a v) ∧ assemble (.rd (.pal i)) = some (.read a)) ∧
  (∀ a r g b : Byte, ∃ v : Word, v.toNat = a.toNat * 2 ^ 24 + r.toNat * 2 ^ 16 + g.toNat * 2 ^ 8 + b.toNat ∧
    assemble (.setColor a r g b) = some (.write 2 v))

/-! ## Steps and the host port -/

/-- A step whose next host move writes a command word to CMD executes the command the word decodes to, or raises
IllegalCommand; nothing else happens around it but that the move is taken off the script (R72). The same for the state
withFetchWord makes (log 9). -/
def Obligations.StepRunsDecodedCommand : Prop :=
  (∀ (s : State) (w : Word) (i : Instr) (rest : List HostMove), s.script = .write 0 w :: rest →
    Sys2Proof.decode w = some i → step s = exec i { s with script := rest }) ∧
  (∀ (s : State) (w : Word) (rest : List HostMove), s.script = .write 0 w :: rest → Sys2Proof.decode w = none →
    step s = .next (raised .illegalCommand { s with script := rest })) ∧
  (∀ (s : State) (i : Instr) (w : Nat), decodeTableWord 32 w = some i → step (s.withFetchWord 32 w) = exec i s)

/-- R27: the state after reset, as the host reads it, and the free value in every palette entry. The empty script, reads and
palPast are the model's choice (log 13). -/
def Obligations.ResetStateHoldsTheSpecValues : Prop :=
  State.reset.color = 0 ∧ State.reset.raw = 0 ∧ State.reset.val = 0 ∧ State.reset.plen = 0 ∧
  State.reset.pclass.word = 0 ∧ State.reset.status.word = 0 ∧ State.reset.readWord 7 = 0x4D430001 ∧
  (∀ a : Addr, a < 7 → State.reset.readWord a = 0) ∧
  (∀ i : Nat, State.reset.palAt i = Config.palReset [] i) ∧
  State.reset.script = [] ∧ State.reset.reads = [] ∧ State.reset.palPast = []

/-- R160: reset from any state. Which draw of PAL_RESET follows, and that the host's side stays, is the model's choice
(logs 1 to 3); the entries' values are free. -/
def Obligations.ResetMoveGivesTheResetState : Prop :=
  ∀ (s : State) (rest : List HostMove), s.script = .reset :: rest → ∃ t, step s = .next t ∧
    t.color = 0 ∧ t.raw = 0 ∧ t.val = 0 ∧ t.plen = 0 ∧ t.pclass.word = 0 ∧ t.status.word = 0 ∧
    (∀ i : Nat, t.palAt i = Config.palReset (s.pal :: s.palPast) i) ∧ t.script = rest ∧ t.reads = s.reads

/-- R47: a read changes no state; it only answers the host. That the answer goes to `reads` and the move comes off `script` is
the model's choice (logs 2, 1). -/
def Obligations.ReadsHaveNoSideEffect : Prop :=
  ∀ (s : State) (a : Addr) (rest : List HostMove), s.script = .read a :: rest → ∃ t, step s = .next t ∧
    t.reads = s.readWord a :: s.reads ∧ t.script = rest ∧ t.palPast = s.palPast ∧
    t.color = s.color ∧ t.raw = s.raw ∧ t.val = s.val ∧ t.plen = s.plen ∧ t.pclass = s.pclass ∧ t.status = s.status ∧
    SamePal s t ∧ ∀ b : Addr, t.readWord b = s.readWord b

/-- R43: reserved addresses read zero and ignore writes, without an error. That the zero goes to `reads` is the model's choice
(log 2). -/
def Obligations.ReservedAddressesReadZeroAndIgnoreWrites : Prop :=
  ∀ (s : State) (a : Addr) (v : Word), 8 ≤ a → a ≤ 0xFF →
    perform (.read a) s = .next { s with reads := 0 :: s.reads } ∧ perform (.write a v) s = .next s

/-- R48: every write and its effect. -/
def Obligations.WriteEffectsAreTheListedOnes : Prop :=
  ∀ (s : State) (v : Word),
    (∀ i : Instr, Sys2Proof.decode v = some i → writeWord 0 v s = exec i s) ∧
    (Sys2Proof.decode v = none → writeWord 0 v s = .next (raised .illegalCommand s)) ∧
    writeWord 2 v s = .next { s with color := v } ∧ writeWord 3 v s = .next { s with raw := v } ∧
    (∀ a : Addr, 0x100 ≤ a → ∃ t, writeWord a v s = .next t ∧ t.palAt (a.toNat - 0x100) = v ∧
      (∀ j, j ≠ a.toNat - 0x100 → t.palAt j = s.palAt j) ∧ t.pclass.word = 0 ∧
      t.color = s.color ∧ t.raw = s.raw ∧ t.val = s.val ∧ t.plen = s.plen ∧ t.status = s.status ∧ SameHost s t) ∧
    (∀ a : Addr, a = 1 ∨ a = 4 ∨ a = 5 ∨ a = 6 ∨ a = 7 → writeWord a v s = .next s) ∧
    (∀ a : Addr, 8 ≤ a → a ≤ 0xFF → writeWord a v s = .next s)

/-- R22, R42, R43: what the host reads at each of the 512 word addresses, registers zero-extended. -/
def Obligations.AddressMapReadsTheState : Prop :=
  ∀ s : State, s.readWord 0 = 0 ∧ (s.readWord 1).toNat = code s.status.last + 16 * code s.status.first ∧
    s.readWord 2 = s.color ∧ s.readWord 3 = s.raw ∧ (s.readWord 4).toNat = s.val.toNat ∧
    (s.readWord 5).toNat = s.plen.toNat ∧
    (s.readWord 6).toNat = s.pclass.noAlpha.toNat + 2 * s.pclass.oneBitAlpha.toNat + 4 * s.pclass.valid.toNat ∧
    s.readWord 7 = 0x4D430001 ∧ (∀ a : Addr, 8 ≤ a → a ≤ 0xFF → s.readWord a = 0) ∧
    ∀ a : Addr, 0x100 ≤ a → s.readWord a = s.palAt (a.toNat - 0x100)

/-- R11: the four fields of a COLOR-shaped word, and the word they make. -/
def Obligations.ColorFieldsAreItsFourBytes : Prop :=
  (∀ c : Word, (channelsOf c).a.toNat = alpha c ∧ (channelsOf c).r.toNat = red c ∧ (channelsOf c).g.toNat = green c ∧
    (channelsOf c).b.toNat = blue c) ∧
  ∀ c : Channels, (colorOf c).toNat = c.a.toNat * 2 ^ 24 + c.r.toNat * 2 ^ 16 + c.g.toNat * 2 ^ 8 + c.b.toNat

/-- R49: the bytes of a packed pixel are little-endian, and assembling them gives RAW back. -/
def Obligations.PixelBytesAreLittleEndian : Prop :=
  ∀ (raw : Word) (k : Nat), k ≤ 4 →
    (∀ j, j < k → (rawBytes raw k)[j]? = some (rawByte raw j) ∧
      (rawByte raw j).toNat = raw.toNat / 2 ^ (8 * j) % 256) ∧
    (rawOfBytes (rawBytes raw k)).toNat = raw.toNat % 2 ^ (8 * k)

/-- R171: with no move to come the PCU is idle and its state is stable. -/
def Obligations.IdleStepChangesNothing : Prop := ∀ s : State, s.script = [] → step s = .next s

/-- R41: every transfer is answered; no step faults and no command is refused. -/
def Obligations.EveryStepAnswersANextState : Prop :=
  (∀ s : State, ∃ t, step s = .next t) ∧ (∀ (i : Instr) (s : State), ∃ t, exec i s = .next t) ∧
  ∀ s : State, ∃ t, Sys2Proof.core.step s = .next t

/-! ## Errors -/

/-- R143: what a failing command does, whichever it is: the code into LAST, into FIRST if it was zero, nothing else. -/
def Obligations.FailedCommandChangesOnlyStatus : Prop :=
  ∀ (w : Word) (s t : State) (e : CmdError), execWord w s = .next t → t.status.last = .failed e →
    SameButStatus s t ∧ (t.readWord 1).toNat % 16 = code (.failed e) ∧ 1 ≤ code (.failed e) ∧ code (.failed e) ≤ 3 ∧
    t.status.first = if s.status.first = .ok then .failed e else s.status.first

/-- R142: which command raises what, and exactly when. -/
def Obligations.ErrorsAriseExactlyAsListed : Prop :=
  ∀ (w : Word) (s t : State), execWord w s = .next t →
    (t.status.last = .failed .illegalCommand ↔ Illegal w) ∧
    (t.status.last = .failed .emptyPalette ↔
      (Sys2Proof.decode w = some .classify ∨ Sys2Proof.decode w = some .matchColor) ∧ s.plen = 0) ∧
    (t.status.last = .failed .noCandidate ↔
      Sys2Proof.decode w = some .matchColor ∧ s.plen ≠ 0 ∧ ∀ i, ¬Candidate s i)

/-- R72, R146: a completed command leaves LAST zero and FIRST as it was, but for CLRERR, which clears it. -/
def Obligations.CompletedCommandKeepsFirst : Prop :=
  ∀ (i : Instr) (s t : State), exec i s = .next t → t.status.last = .ok →
    t.status.first = if i = .clrErr then .ok else s.status.first

/-- R148: re-issuing a failed command at once changes nothing at all, and with the same COLOR, PLEN and palette it fails the
same way whatever else has changed. -/
def Obligations.ReissuedFailureChangesNothing : Prop :=
  (∀ (i : Instr) (s t : State), exec i s = .next t → t.status.last ≠ .ok → exec i t = .next t) ∧
  ∀ (i : Instr) (s₁ s₂ t₁ t₂ : State) (e : CmdError), s₁.color = s₂.color → s₁.plen = s₂.plen →
    (∀ j, j < s₁.plen.toNat → s₁.palAt j = s₂.palAt j) → exec i s₁ = .next t₁ → exec i s₂ = .next t₂ →
    t₁.status.last = .failed e → t₂.status.last = .failed e

/-- R25: a command's result is a function of the command, the data registers, PLEN and the palette: STATUS, PCLASS, the
host's side and how the palette is held have no influence. -/
def Obligations.CommandResultDependsOnOperandsOnly : Prop :=
  ∀ (i : Instr) (s₁ s₂ t₁ t₂ : State), s₁.color = s₂.color → s₁.raw = s₂.raw → s₁.val = s₂.val → s₁.plen = s₂.plen →
    (∀ j, s₁.palAt j = s₂.palAt j) → exec i s₁ = .next t₁ → exec i s₂ = .next t₂ →
    t₁.status.last = t₂.status.last ∧ t₁.color = t₂.color ∧ t₁.raw = t₂.raw ∧ t₁.val = t₂.val ∧ t₁.plen = t₂.plen ∧
    (∀ j, t₁.palAt j = t₂.palAt j) ∧
    (t₁.status.last = .ok → i = .classify ∨ (∃ n, i = .setPlen n) → t₁.pclass = t₂.pclass)

/-- R123: a MATCH depends on COLOR, PLEN and PAL[0 .. PLEN-1] and on nothing else. -/
def Obligations.MatchDependsOnColorAndPaletteOnly : Prop :=
  ∀ s₁ s₂ t₁ t₂ : State, s₁.color = s₂.color → s₁.plen = s₂.plen →
    (∀ j, j < s₁.plen.toNat → s₁.palAt j = s₂.palAt j) →
    exec .matchColor s₁ = .next t₁ → exec .matchColor s₂ = .next t₂ →
    t₁.status.last = t₂.status.last ∧ (t₁.status.last = .ok → t₁.raw = t₂.raw)

/-! ## Channel conversion -/

/-- R80: rescale on its domain is the rounded quotient, or 255 when a channel is absent. -/
def Obligations.RescaleIsTheRoundedQuotient : Prop :=
  ∀ (v : Byte) (f t : Width), f ≤ 8 → t ≤ 8 →
    (f = 0 ∨ t = 0 → rescale v f t = 255) ∧
    (f ≠ 0 → t ≠ 0 → v.toNat ≤ 2 ^ f.toNat - 1 → (rescale v f t).toNat =
      (v.toNat * (2 ^ t.toNat - 1) + (2 ^ f.toNat - 1) / 2) / (2 ^ f.toNat - 1))

/-- R81: the properties of rescale on its domain, (a) to (f); (b) holds because rescale is a total function. -/
def Obligations.RescaleRoundTripRangeAndOrder : Prop :=
  (∀ (n : Width) (v : Byte), 1 ≤ n → n ≤ 8 → v.toNat ≤ 2 ^ n.toNat - 1 → rescale (rescale v n 8) 8 n = v) ∧
  (∀ (f t : Width) (v : Byte), 1 ≤ f → f ≤ 8 → 1 ≤ t → t ≤ 8 → v.toNat ≤ 2 ^ f.toNat - 1 →
    (rescale v f t).toNat ≤ 2 ^ t.toNat - 1 ∧ rescale 0 f t = 0 ∧
    (rescale (BitVec.ofNat 8 (2 ^ f.toNat - 1)) f t).toNat = 2 ^ t.toNat - 1 ∧
    2 * (v.toNat * (2 ^ t.toNat - 1) % (2 ^ f.toNat - 1)) ≠ 2 ^ f.toNat - 1 ∧
    2 * ((rescale v f t).toNat * (2 ^ f.toNat - 1)) < 2 * (v.toNat * (2 ^ t.toNat - 1)) + (2 ^ f.toNat - 1) ∧
    2 * (v.toNat * (2 ^ t.toNat - 1)) < 2 * ((rescale v f t).toNat * (2 ^ f.toNat - 1)) + (2 ^ f.toNat - 1)) ∧
  (∀ (f t : Width) (v : Byte), f ≤ 8 → t ≤ 8 → f = 0 ∨ t = 0 → rescale v f t = 255 ∧
    (rescale v f t).toNat &&& (2 ^ t.toNat - 1) = 2 ^ t.toNat - 1) ∧
  (∀ (n : Width) (v : Byte), 1 ≤ n → n ≤ 8 → v.toNat ≤ 2 ^ n.toNat - 1 → rescale v n n = v) ∧
  (∀ (f t : Width) (v₁ v₂ : Byte), f ≤ 8 → t ≤ 8 → v₂.toNat ≤ 2 ^ f.toNat - 1 → v₁ ≤ v₂ →
    rescale v₁ f t ≤ rescale v₂ f t) ∧
  (∀ (n m : Width) (v : Byte), 1 ≤ n → n ≤ m → m ≤ 8 → v.toNat ≤ 2 ^ n.toNat - 1 → rescale (rescale v n m) m n = v)

/-- R82: RESCALE, its word, its result and its error. That exec of a term with a width out of range raises IllegalCommand is the
model's reading (log 10): the decoder rejects such a word first. -/
def Obligations.RescaleCommand : Prop :=
  ∀ (s : State) (value : Byte) (f t : Width),
    (∀ v : Word, Sys2Proof.decode v = some (.rescale value f t) ↔ (f ≤ 8 ∧ t ≤ 8) ∧
      v = BitVec.ofNat 32 (value.toNat * 2 ^ 16 + t.toNat * 2 ^ 12 + f.toNat * 2 ^ 8 + 1)) ∧
    (f ≤ 8 → t ≤ 8 → ∃ x : Byte, x = rescale (BitVec.ofNat 8 (value.toNat % 2 ^ f.toNat)) f t ∧
      (f = 0 ∨ t = 0 → x = 255) ∧ (value = 0 → f ≠ 0 → t ≠ 0 → x = 0) ∧
      (f = t → f ≠ 0 → x.toNat = value.toNat % 2 ^ f.toNat) ∧
      exec (.rescale value f t) s = .next (done { s with val := x })) ∧
    (¬(f ≤ 8 ∧ t ≤ 8) → exec (.rescale value f t) s = .next (raised .illegalCommand s)) ∧
    OtherWordsRaise 1 fun v => ∃ (x : Byte) (f t : Width), f ≤ 8 ∧ t ≤ 8 ∧
      v = BitVec.ofNat 32 (x.toNat * 2 ^ 16 + t.toNat * 2 ^ 12 + f.toNat * 2 ^ 8 + 1)

/-- R84: pack is the concatenation of the masked channels, alpha most significant, zero above. -/
def Obligations.PackConcatenatesTheChannels : Prop :=
  ∀ (c : Channels) (w : Widths), Legal w →
    (pack c w).toNat = ((c.a.toNat &&& (2 ^ w.a.toNat - 1)) <<< (w.r.toNat + w.g.toNat + w.b.toNat)) |||
      ((c.r.toNat &&& (2 ^ w.r.toNat - 1)) <<< (w.g.toNat + w.b.toNat)) |||
      ((c.g.toNat &&& (2 ^ w.g.toNat - 1)) <<< w.b.toNat) ||| (c.b.toNat &&& (2 ^ w.b.toNat - 1)) ∧
    (pack c w).toNat = c.a.toNat % 2 ^ w.a.toNat * 2 ^ (w.r.toNat + w.g.toNat + w.b.toNat) +
      c.r.toNat % 2 ^ w.r.toNat * 2 ^ (w.g.toNat + w.b.toNat) + c.g.toNat % 2 ^ w.g.toNat * 2 ^ w.b.toNat +
      c.b.toNat % 2 ^ w.b.toNat ∧
    (pack c w).toNat < 2 ^ (w.a.toNat + w.r.toNat + w.g.toNat + w.b.toNat)

/-- R85: PACK, its word, its result and its error. That exec of a term with a width out of range raises IllegalCommand is the
model's reading (log 10): the decoder rejects such a word first. -/
def Obligations.PackCommand : Prop :=
  ∀ (s : State) (w : Widths),
    (∀ v : Word, Sys2Proof.decode v = some (.pack w) ↔ Legal w ∧ v = wordW w 2) ∧
    (Legal w → exec (.pack w) s = .next (done { s with raw := pack (channelsOf s.color) w })) ∧
    (w = ⟨0, 0, 0, 0⟩ → pack (channelsOf s.color) w = 0) ∧
    (w = ⟨8, 8, 8, 8⟩ → pack (channelsOf s.color) w = s.color) ∧
    (¬Legal w → exec (.pack w) s = .next (raised .illegalCommand s)) ∧
    OtherWordsRaise 2 fun v => ∃ w : Widths, Legal w ∧ v = wordW w 2

/-- R87: unpack extracts the four native-width fields. -/
def Obligations.UnpackExtractsTheFields : Prop :=
  ∀ (raw : Word) (w : Widths), Legal w →
    (unpack raw w).a.toNat = raw.toNat / 2 ^ (w.r.toNat + w.g.toNat + w.b.toNat) % 2 ^ w.a.toNat ∧
    (unpack raw w).r.toNat = raw.toNat / 2 ^ (w.g.toNat + w.b.toNat) % 2 ^ w.r.toNat ∧
    (unpack raw w).g.toNat = raw.toNat / 2 ^ w.b.toNat % 2 ^ w.g.toNat ∧
    (unpack raw w).b.toNat = raw.toNat % 2 ^ w.b.toNat ∧
    ∀ raw' : Word, raw'.toNat % 2 ^ (w.a.toNat + w.r.toNat + w.g.toNat + w.b.toNat) =
      raw.toNat % 2 ^ (w.a.toNat + w.r.toNat + w.g.toNat + w.b.toNat) → unpack raw' w = unpack raw w

/-- R88: UNPACK, its word, its result and its error. That exec of a term with a width out of range raises IllegalCommand is the
model's reading (log 10): the decoder rejects such a word first. -/
def Obligations.UnpackCommand : Prop :=
  ∀ (s : State) (w : Widths),
    (∀ v : Word, Sys2Proof.decode v = some (.unpack w) ↔ Legal w ∧ v = wordW w 3) ∧
    (Legal w → ∃ c : Word, channelsOf c = unpack s.raw w ∧ exec (.unpack w) s = .next (done { s with color := c }) ∧
      (w.a = 0 → alpha c = 0) ∧ (w.r = 0 → red c = 0) ∧ (w.g = 0 → green c = 0) ∧ (w.b = 0 → blue c = 0)) ∧
    (¬Legal w → exec (.unpack w) s = .next (raised .illegalCommand s)) ∧
    OtherWordsRaise 3 fun v => ∃ w : Widths, Legal w ∧ v = wordW w 3

/-- R86: every width tuple is legal, and pack and unpack are inverse on native values. -/
def Obligations.PackAndUnpackAreInverse : Prop :=
  ∀ w : Widths, Legal w →
    (∀ op, op ∈ [2, 3, 4, 5] → Sys2Proof.decode (wordW w op) ≠ none) ∧
    (∀ raw : Word, raw.toNat < 2 ^ (w.a.toNat + w.r.toNat + w.g.toNat + w.b.toNat) → pack (unpack raw w) w = raw) ∧
    (∀ c : Channels, c.a.toNat ≤ 2 ^ w.a.toNat - 1 → c.r.toNat ≤ 2 ^ w.r.toNat - 1 → c.g.toNat ≤ 2 ^ w.g.toNat - 1 →
      c.b.toNat ≤ 2 ^ w.b.toNat - 1 → unpack (pack c w) w = c)

/-- R89: ENCODE, its word, its result and its error. That exec of a term with a width out of range raises IllegalCommand is the
model's reading (log 10): the decoder rejects such a word first. -/
def Obligations.EncodeCommand : Prop :=
  ∀ (s : State) (w : Widths),
    (∀ v : Word, Sys2Proof.decode v = some (.encode w) ↔ Legal w ∧ v = wordW w 4) ∧
    (Legal w → ∃ x : Word, x = pack ⟨rescale (channelsOf s.color).a 8 w.a, rescale (channelsOf s.color).r 8 w.r,
        rescale (channelsOf s.color).g 8 w.g, rescale (channelsOf s.color).b 8 w.b⟩ w ∧
      exec (.encode w) s = .next (done { s with raw := x }) ∧ (w = ⟨0, 0, 0, 0⟩ → x = 0)) ∧
    (∀ v : Byte, rescale v 8 8 = v ∧ rescale v 8 0 = 255) ∧
    (¬Legal w → exec (.encode w) s = .next (raised .illegalCommand s)) ∧
    OtherWordsRaise 4 fun v => ∃ w : Widths, Legal w ∧ v = wordW w 4

/-- R90: DECODE, its word, its result and its error. That exec of a term with a width out of range raises IllegalCommand is the
model's reading (log 10): the decoder rejects such a word first. -/
def Obligations.DecodeCommand : Prop :=
  ∀ (s : State) (w : Widths),
    (∀ v : Word, Sys2Proof.decode v = some (.decode w) ↔ Legal w ∧ v = wordW w 5) ∧
    (Legal w → ∃ c : Word, exec (.decode w) s = .next (done { s with color := c }) ∧
      channelsOf c = ⟨rescale (unpack s.raw w).a w.a 8, rescale (unpack s.raw w).r w.r 8,
        rescale (unpack s.raw w).g w.g 8, rescale (unpack s.raw w).b w.b 8⟩ ∧
      (w = ⟨0, 0, 0, 0⟩ → c = 0xFFFFFFFF)) ∧
    (∀ v : Byte, rescale v 8 8 = v ∧ rescale v 0 8 = 255) ∧
    (¬Legal w → exec (.decode w) s = .next (raised .illegalCommand s)) ∧
    OtherWordsRaise 5 fun v => ∃ w : Widths, Legal w ∧ v = wordW w 5

/-- R89, R91: absent channels, whichever they are, read 255 on decode and are ignored on encode. -/
def Obligations.AbsentChannelsDefaultAndAreIgnored : Prop :=
  (∀ (s : State) (w : Widths), Legal w → ∃ t, exec (.decode w) s = .next t ∧
    (w.a = 0 → alpha t.color = 255) ∧ (w.r = 0 → red t.color = 255) ∧ (w.g = 0 → green t.color = 255) ∧
    (w.b = 0 → blue t.color = 255)) ∧
  (∀ (s : State) (c : Word) (w : Widths), Legal w → (w.a = 0 ∨ alpha c = alpha s.color) →
    (w.r = 0 ∨ red c = red s.color) → (w.g = 0 ∨ green c = green s.color) → (w.b = 0 ∨ blue c = blue s.color) → ∃ t t', exec (.encode w) s = .next t ∧ exec (.encode w) { s with color := c } = .next t' ∧
      t.raw = t'.raw) ∧
  (∀ s : State, s.raw = 0xFF → ∃ t, exec (.decode ⟨8, 0, 0, 0⟩) s = .next t ∧ t.color = 0xFFFFFFFF)

/-- R92: decode then encode restores the container; encoding is idempotent through a decode; the full-width tuple copies. -/
def Obligations.EncodeAndDecodeObeyTheirLaws : Prop :=
  ∀ (s : State) (w : Widths), Legal w →
    (s.raw.toNat < 2 ^ (w.a.toNat + w.r.toNat + w.g.toNat + w.b.toNat) →
      ∃ t u, exec (.decode w) s = .next t ∧ exec (.encode w) t = .next u ∧ u.raw = s.raw) ∧
    (∃ t u v, exec (.encode w) s = .next t ∧ exec (.decode w) t = .next u ∧ exec (.encode w) u = .next v ∧
      v.raw = t.raw) ∧
    (w = ⟨8, 8, 8, 8⟩ →
      exec (.encode w) s = .next (done { s with raw := s.color }) ∧
      exec (.pack w) s = .next (done { s with raw := s.color }) ∧
      exec (.decode w) s = .next (done { s with color := s.raw }) ∧
      exec (.unpack w) s = .next (done { s with color := s.raw }))

/-- R96: LUMA. A color that is not gray gives LUMA_WEIGHTED, a free value: the statement holds for every such function. -/
def Obligations.LumaCommand : Prop :=
  (∀ v : Word, Sys2Proof.decode v = some .luma ↔ v = 6) ∧ OtherWordsRaise 6 (· = 6) ∧
  ∀ (s : State) (r g b : Byte), r.toNat = red s.color → g.toNat = green s.color → b.toNat = blue s.color →
    (r = g → g = b → exec .luma s = .next (done { s with val := r })) ∧
    (¬(r = g ∧ g = b) → exec .luma s = .next (done { s with val := Config.lumaWeighted r g b }))

/-! ## Palette -/

/-- R111: SETPLEN, its word, its result, its error, and that an empty palette fails CLASSIFY and MATCH. That exec of a term with
a length out of range raises IllegalCommand is the model's reading (log 10): the decoder rejects such a word first. -/
def Obligations.SetPlenCommand : Prop :=
  ∀ (s : State) (n : BitVec 9),
    (∀ v : Word, Sys2Proof.decode v = some (.setPlen n) ↔ n ≤ 256 ∧ v = BitVec.ofNat 32 (n.toNat * 2 ^ 8 + 7)) ∧
    (n ≤ 256 → ∃ p : PClass, p.word = 0 ∧ exec (.setPlen n) s = .next (done { s with plen := n, pclass := p })) ∧
    (¬n ≤ 256 → exec (.setPlen n) s = .next (raised .illegalCommand s)) ∧
    (s.plen = 0 → exec .classify s = .next (raised .emptyPalette s) ∧
      exec .matchColor s = .next (raised .emptyPalette s)) ∧
    OtherWordsRaise 7 fun v => ∃ n : BitVec 9, n ≤ 256 ∧ v = BitVec.ofNat 32 (n.toNat * 2 ^ 8 + 7)

/-- R113: the closed form of the classification, with the PCLASS word CLASSIFY leaves in each case. -/
def Obligations.ClassificationClosedForm : Prop :=
  ∀ P : List Word, P ≠ [] →
    ((∀ p ∈ P, alpha p = 255) → classify P = (true, false) ∧ (classOf P).word = 5) ∧
    ((∀ p ∈ P, alpha p = 0 ∨ alpha p = 255) → (∃ p ∈ P, alpha p = 0) → (∃ p ∈ P, alpha p = 255) →
      classify P = (true, false) ∧ (classOf P).word = 5) ∧
    ((∀ p ∈ P, alpha p = 0) → classify P = (false, true) ∧ (classOf P).word = 6) ∧
    ((∃ p ∈ P, alpha p ≠ 0 ∧ alpha p ≠ 255) → classify P = (false, false) ∧ (classOf P).word = 4) ∧
    ((classify P).2 = true ↔ ∀ p ∈ P, alpha p = 0) ∧
    ((classify P).1 = true ↔ (∀ p ∈ P, alpha p = 0 ∨ alpha p = 255) ∧ ∃ p ∈ P, alpha p = 255) ∧
    ¬((classify P).1 = true ∧ (classify P).2 = true)

/-- R114: CLASSIFY, its word, its result and its error. That PCLASS is zero while PLEN is zero needs the invariant. -/
def Obligations.ClassifyCommand : Prop :=
  (∀ v : Word, Sys2Proof.decode v = some .classify ↔ v = 8) ∧ OtherWordsRaise 8 (· = 8) ∧
  ∀ s : State,
    (s.plen = 0 → exec .classify s = .next (raised .emptyPalette s)) ∧
    (s.plen = 0 → s.Inv → s.pclass.word = 0) ∧
    (s.plen ≠ 0 → ∃ p : PClass, exec .classify s = .next (done { s with pclass := p }) ∧ p.valid = true ∧
      (p.noAlpha = true ↔ Binary s ∧ SomeOpaque s) ∧ (p.oneBitAlpha = true ↔ Transparent s))

/-- R116: the two distances are exact sums of squared differences, with their bounds. -/
def Obligations.DistancesAreExactAndBounded : Prop :=
  ∀ c p : Word, (distRgb c p : Int) = distance true c p ∧ (distArgb c p : Int) = distance false c p ∧
    distRgb c p ≤ 195075 ∧ distArgb c p ≤ 260100 ∧ distArgb c p < 2 ^ 18

/-- R117: the alpha-bucket filter. -/
def Obligations.FilterSkipsTheOtherBucket : Prop :=
  ∀ (c p : Word) (ob : Bool), skipped c p ob = true ↔
    ob = true ∧ ((alpha c ≤ 127 ∧ alpha p = 255) ∨ (127 < alpha c ∧ alpha p = 0))

/-- R118: the scan finds the lowest index among the candidates not skipped that have the smallest distance, and none exactly
when every candidate is skipped. -/
def Obligations.ScanFindsTheFirstNearest : Prop :=
  ∀ (c : Word) (P : List Word),
    (nearest c P = none ↔ ∀ p ∈ P, skipped c p (classify P).2 = true) ∧
    ∀ i : Nat, nearest c P = some i ↔ ∃ p, P[i]? = some p ∧ skipped c p (classify P).2 = false ∧
      ∀ (j : Nat) (q : Word), P[j]? = some q → skipped c q (classify P).2 = false →
        dist (rgbOnly P) c p ≤ dist (rgbOnly P) c q ∧ (j < i → dist (rgbOnly P) c p < dist (rgbOnly P) c q)

/-- R119: MATCH, in the terms of the palette the host wrote: its errors, when it completes, and the index it writes. The bound
on PLEN is R18's, an invariant of the machine (StepKeepsTheInvariant). -/
def Obligations.MatchCommand : Prop :=
  (∀ v : Word, Sys2Proof.decode v = some .matchColor ↔ v = 9) ∧ OtherWordsRaise 9 (· = 9) ∧
  ∀ (s : State) (rgb : Bool), s.plen ≤ 256 → (rgb = true ↔ Binary s) →
    (s.plen = 0 → exec .matchColor s = .next (raised .emptyPalette s)) ∧
    (s.plen ≠ 0 → (∀ i, ¬Candidate s i) → exec .matchColor s = .next (raised .noCandidate s)) ∧
    ((∃ i, Candidate s i) → ∃ (best : Nat) (x : Word), x.toNat = best ∧ best < 256 ∧ Candidate s best ∧
      (∀ j, Candidate s j → distance rgb s.color (s.palAt best) ≤ distance rgb s.color (s.palAt j) ∧
        (j < best → distance rgb s.color (s.palAt best) < distance rgb s.color (s.palAt j))) ∧
      exec .matchColor s = .next (done { s with raw := x }))

/-- R120: exactly when NoCandidate is raised; over every other non-empty palette nothing is skipped and MATCH completes, and a
palette of alphas 0 and 255 is matched on red, green and blue alone. -/
def Obligations.NoCandidateExactlyForOpaqueSourceOnTransparentPalette : Prop :=
  ∀ s t : State, exec .matchColor s = .next t →
    (t.status.last = .failed .noCandidate ↔ s.plen ≠ 0 ∧ Transparent s ∧ 128 ≤ alpha s.color) ∧
    (s.plen ≠ 0 → ¬(Transparent s ∧ 128 ≤ alpha s.color) → t.status.last = .ok ∧
      ∀ i, i < s.plen.toNat → skipped s.color (s.palAt i) (classify s.palette).2 = false) ∧
    (s.plen ≠ 0 → Transparent s ∧ 128 ≤ alpha s.color →
      ∀ i, i < s.plen.toNat → skipped s.color (s.palAt i) (classify s.palette).2 = true) ∧
    (s.plen ≠ 0 → Binary s → rgbOnly s.palette = true)

/-- R121: LOOKUP, its word and its result, whatever PLEN is; the host reads the same word in the palette window. -/
def Obligations.LookupCommand : Prop :=
  (∀ v : Word, Sys2Proof.decode v = some .lookup ↔ v = 10) ∧ OtherWordsRaise 10 (· = 10) ∧
  ∀ s : State, exec .lookup s = .next (done { s with color := s.palAt (s.raw.toNat % 256) }) ∧
    ∃ a : Addr, a.toNat = 0x100 + s.raw.toNat % 256 ∧ s.readWord a = s.palAt (s.raw.toNat % 256)

/-- R122: looking up the matched entry and matching it again gives the same index. -/
def Obligations.LookupThenMatchGivesTheSameIndex : Prop :=
  ∀ s t : State, s.plen ≤ 256 → exec .matchColor s = .next t → t.status.last = .ok →
    ∃ u v, exec .lookup t = .next u ∧ exec .matchColor u = .next v ∧ v.status.last = .ok ∧ v.raw = t.raw

/-! ## System -/

/-- R130: NOP changes nothing but STATUS.LAST. -/
def Obligations.NopCommand : Prop :=
  (∀ v : Word, Sys2Proof.decode v = some .nop ↔ v = 0) ∧ OtherWordsRaise 0 (· = 0) ∧ ∀ s : State, exec .nop s = .next (done s)

/-- R131: CLRERR clears both fields of STATUS and nothing else; a CLRERR word with a bit of 31:4 set is illegal. -/
def Obligations.ClrErrCommand : Prop :=
  (∀ v : Word, Sys2Proof.decode v = some .clrErr ↔ v = 11) ∧
  (∀ s : State, exec .clrErr s = .next { s with status := { last := .ok, first := .ok } }) ∧
  OtherWordsRaise 11 (· = 11)

/-! ## Frames -/

/-- PACK, ENCODE, MATCH write RAW and STATUS only, and RAW only when they complete. -/
def Obligations.RawWritersFrame : Prop :=
  ∀ (i : Instr) (s t : State), i = .matchColor ∨ (∃ w, i = .pack w ∨ i = .encode w) → exec i s = .next t →
    t.color = s.color ∧ t.val = s.val ∧ t.plen = s.plen ∧ t.pclass = s.pclass ∧ SamePal s t ∧ SameHost s t ∧
    FirstRule s t ∧ (t.status.last ≠ .ok → t.raw = s.raw)

/-- UNPACK, DECODE, LOOKUP write COLOR and STATUS only, and COLOR only when they complete. -/
def Obligations.ColorWritersFrame : Prop :=
  ∀ (i : Instr) (s t : State), i = .lookup ∨ (∃ w, i = .unpack w ∨ i = .decode w) → exec i s = .next t →
    t.raw = s.raw ∧ t.val = s.val ∧ t.plen = s.plen ∧ t.pclass = s.pclass ∧ SamePal s t ∧ SameHost s t ∧
    FirstRule s t ∧ (t.status.last ≠ .ok → t.color = s.color)

/-- RESCALE and LUMA write VAL and STATUS only, and VAL only when they complete. -/
def Obligations.ValWritersFrame : Prop :=
  ∀ (i : Instr) (s t : State), i = .luma ∨ (∃ v f w, i = .rescale v f w) → exec i s = .next t →
    t.color = s.color ∧ t.raw = s.raw ∧ t.plen = s.plen ∧ t.pclass = s.pclass ∧ SamePal s t ∧ SameHost s t ∧
    FirstRule s t ∧ (t.status.last ≠ .ok → t.val = s.val)

/-- SETPLEN writes PLEN, PCLASS and STATUS, CLASSIFY PCLASS and STATUS, only when they complete; the palette stays. -/
def Obligations.PaletteControlFrame : Prop :=
  ∀ (i : Instr) (s t : State), i = .classify ∨ (∃ n, i = .setPlen n) → exec i s = .next t →
    t.color = s.color ∧ t.raw = s.raw ∧ t.val = s.val ∧ SamePal s t ∧ SameHost s t ∧ FirstRule s t ∧
    (i = .classify → t.plen = s.plen) ∧ (t.status.last ≠ .ok → t.plen = s.plen ∧ t.pclass = s.pclass)

/-- NOP and CLRERR write STATUS only, and NOP leaves FIRST. -/
def Obligations.StatusOnlyFrame : Prop :=
  ∀ (i : Instr) (s t : State), i = .nop ∨ i = .clrErr → exec i s = .next t →
    SameButStatus s t ∧ (i = .nop → t.status.first = s.status.first)

/-! ## Whole-machine rules -/

/-- The reset state has the invariant. -/
def Obligations.ResetHasTheInvariant : Prop := State.reset.Inv

/-- Every step keeps the invariant: canonical palette cells (log 4), PLEN at most 256 (R18), PCLASS clear or current (R20),
FIRST recorded whenever LAST is (R143). -/
def Obligations.StepKeepsTheInvariant : Prop := ∀ s t : State, s.Inv → step s = .next t → t.Inv

/-- R20: what clears PCLASS, that nothing else does, and that a VALID class is the class of the palette as it is. -/
def Obligations.PclassIsClearedExactlyByTheListedEvents : Prop :=
  (∀ (s t : State) (rest : List HostMove), s.script = .reset :: rest → step s = .next t → t.pclass.word = 0) ∧
  (∀ (s t : State) (rest : List HostMove) (a : Addr) (v : Word), 0x100 ≤ a → s.script = .write a v :: rest →
    step s = .next t → t.pclass.word = 0) ∧
  (∀ (s t : State) (rest : List HostMove) (w : Word) (n : BitVec 9), s.script = .write 0 w :: rest →
    Sys2Proof.decode w = some (.setPlen n) → step s = .next t → t.status.last = .ok ∧ t.pclass.word = 0) ∧
  (∀ s t : State, step s = .next t → s.pclass.word ≠ 0 → t.pclass.word = 0 →
    ∃ m rest, s.script = m :: rest ∧ (m = .reset ∨ (∃ a v, 0x100 ≤ a ∧ m = .write a v) ∨
      ∃ w n, m = .write 0 w ∧ Sys2Proof.decode w = some (.setPlen n))) ∧
  (∀ s : State, s.Inv → s.pclass.valid = true → (s.pclass.noAlpha, s.pclass.oneBitAlpha) = classify s.palette)

/-- R15, R27: a palette entry changes only by a host write to it or by reset; no command writes the palette, and an
unwritten entry keeps its value. -/
def Obligations.PaletteChangesOnlyByHostWriteOrReset : Prop :=
  ∀ (s t : State) (i : Nat), step s = .next t → t.palAt i ≠ s.palAt i →
    ∃ m rest, s.script = m :: rest ∧ (m = .reset ∨ ∃ (a : Addr) (v : Word), a.toNat = 0x100 + i ∧ m = .write a v ∧
      t.palAt i = v)

/-- R161: what the first commands after reset do, in the reset state and after a reset from any state. LOOKUP gives a
free value PAL_RESET(0); that its draw is named by palPast is the model's choice (log 3). -/
def Obligations.FirstCommandsAfterReset : Prop :=
  ∀ r : State, (r = State.reset ∨ ∃ s : State, r = s.afterReset) →
    exec .matchColor r = .next (raised .emptyPalette r) ∧ exec .classify r = .next (raised .emptyPalette r) ∧
    (∀ w : Widths, Legal w → ∃ t, exec (.encode w) r = .next t ∧ t.raw = 0) ∧
    (∀ w : Widths, Legal w → ∃ t, exec (.decode w) r = .next t ∧
      alpha t.color = (if w.a = 0 then 255 else 0) ∧ red t.color = (if w.r = 0 then 255 else 0) ∧
      green t.color = (if w.g = 0 then 255 else 0) ∧ blue t.color = (if w.b = 0 then 255 else 0)) ∧
    (∃ t, exec .luma r = .next t ∧ t.val = 0) ∧
    (∃ t, exec .lookup r = .next t ∧ t.color = Config.palReset r.palPast 0) ∧
    r.readWord 1 = 0 ∧ r.readWord 7 = 0x4D430001

/-! ## The host's transfers as a parameter -/

/-- R26: the host's move is a parameter of the step of the PCU's own state, `stepUnder`; performing the move on State, and the
step that finds it at the head of the script, do to the PCU just that, and the host's side has no influence. Where the answers
and the rest of the script stand is the model's choice (logs 1, 2). -/
def Obligations.HostMoveIsAParameterOfTheStep : Prop :=
  ∀ (s : State) (m : HostMove), ∃ (p : Pcu) (words : List Word), stepUnder m s.toPcu = .next (p, words) ∧
    perform m s = .next { toPcu := p, script := s.script, reads := words ++ s.reads } ∧
    words = (match m with | .read a => [s.readWord a] | .reset => [] | .write _ _ => []) ∧
    ∀ rest : List HostMove, s.script = m :: rest →
      step s = .next { toPcu := p, script := rest, reads := words ++ s.reads }

/-- R26, R51, R171: the run of the PCU under a sequence of transfers given as a parameter is what the machine does with that
sequence as its script: the same final state, the same words read, nothing left in flight. Where script and reads stand is the
model's choice (logs 1, 2). -/
def Obligations.RunOfAScriptIsTheRunOfItsMoves : Prop :=
  ∀ (moves : List HostMove) (p : Pcu), ∃ (q : Pcu) (words : List Word), runUnder moves p = .next (q, words) ∧
    Sys2Proof.core.run moves.length ({ toPcu := p, script := moves, reads := [] } : State) =
      .next ({ toPcu := q, script := [], reads := words.reverse } : State)
end

