-- ==== Sys2Proof/Laws/Bits.lean ====
section
/-! SUPPORT. Bit fields: a field of a concatenation, the channels of a color, masks as remainders. -/

namespace Sys2Proof.Machine

/-- A field that lies whole in the upper part of a concatenation is a field of that part. -/
theorem extractLsb'_append_high {m n : Nat} (x : BitVec m) (y : BitVec n) (start len : Nat) (h : n ≤ start) :
    (x ++ y).extractLsb' start len = x.extractLsb' (start - n) len := by
  apply BitVec.eq_of_getLsbD_eq
  intro i hi
  simp only [BitVec.getLsbD_extractLsb', BitVec.getLsbD_append, hi, decide_true, Bool.true_and]
  rw [if_neg (by omega)]
  congr 1
  omega

/-- A field that lies whole in the lower part of a concatenation is a field of that part. -/
theorem extractLsb'_append_low {m n : Nat} (x : BitVec m) (y : BitVec n) (start len : Nat) (h : start + len ≤ n) :
    (x ++ y).extractLsb' start len = y.extractLsb' start len := by
  apply BitVec.eq_of_getLsbD_eq
  intro i hi
  simp only [BitVec.getLsbD_extractLsb', BitVec.getLsbD_append, hi, decide_true, Bool.true_and]
  rw [if_pos (by omega)]

/-- The whole of a word as a field. -/
theorem extractLsb'_zero_self {n : Nat} (x : BitVec n) : x.extractLsb' 0 n = x := by
  apply BitVec.eq_of_getLsbD_eq
  intro i hi
  simp [hi]

/-- A color built from four channels has those channels. -/
@[simp] theorem channelsOf_colorOf (c : Channels) : channelsOf (colorOf c) = c := by
  obtain ⟨a, r, g, b⟩ := c
  simp only [channelsOf, colorOf, Channels.mk.injEq]
  refine ⟨?_, ?_, ?_, ?_⟩
  · rw [extractLsb'_append_high _ _ _ _ (by omega), extractLsb'_append_high _ _ _ _ (by omega),
      extractLsb'_append_high _ _ _ _ (by omega)]
    exact extractLsb'_zero_self a
  · rw [extractLsb'_append_high _ _ _ _ (by omega), extractLsb'_append_high _ _ _ _ (by omega),
      extractLsb'_append_low _ _ _ _ (by omega)]
    exact extractLsb'_zero_self r
  · rw [extractLsb'_append_high _ _ _ _ (by omega), extractLsb'_append_low _ _ _ _ (by omega)]
    exact extractLsb'_zero_self g
  · rw [extractLsb'_append_low _ _ _ _ (by omega)]
    exact extractLsb'_zero_self b

/-- A color is built from its four channels. -/
@[simp] theorem colorOf_channelsOf (c : Word) : colorOf (channelsOf c) = c := by
  apply BitVec.eq_of_getLsbD_eq
  intro i hi
  simp only [colorOf, channelsOf, BitVec.getLsbD_append, BitVec.getLsbD_extractLsb']
  split
  · rename_i h; simp [h]
  · split
    · rename_i h1 h2; simp [h2]; congr 1; omega
    · split
      · rename_i h1 h2 h3; simp [h3]; congr 1; omega
      · rename_i h1 h2 h3
        have : i - 8 - 8 - 8 < 8 := by omega
        simp [this]; congr 1; omega

/-- Masking with `ones(n)` is the remainder by `2^n`. -/
theorem and_ones (x n : Nat) : x &&& ones n = x % 2 ^ n := by
  simp [ones, Nat.and_two_pow_sub_one_eq_mod]

theorem ones_pos {n : Nat} (h : 0 < n) : 0 < ones n := by
  have : 2 ^ 1 ≤ 2 ^ n := Nat.pow_le_pow_right (by omega) h
  simp only [ones]; omega

/-- The low `w` bits of a channel as a remainder. -/
theorem lowBits_toNat (v : Byte) (w : Width) : (lowBits v w).toNat = v.toNat % 2 ^ w.toNat := by
  have h : v.toNat &&& (ones w.toNat % 256) = v.toNat % 2 ^ w.toNat := by
    by_cases hw : w.toNat ≤ 8
    · have : 2 ^ w.toNat ≤ 2 ^ 8 := Nat.pow_le_pow_right (by omega) hw
      rw [Nat.mod_eq_of_lt (by simp only [ones]; omega), and_ones]
    · have h8 : 2 ^ 9 ≤ 2 ^ w.toNat := Nat.pow_le_pow_right (by omega) (by omega)
      have hv : v.toNat < 256 := v.isLt
      have hm : ones w.toNat % 256 = 255 := by
        obtain ⟨k, hk⟩ : ∃ k, w.toNat = 8 + k := ⟨w.toNat - 8, by omega⟩
        have : 0 < 2 ^ k := Nat.two_pow_pos k
        simp only [ones, hk, Nat.pow_add]; omega
      rw [hm, show (255 : Nat) = ones 8 by rfl, and_ones, Nat.mod_eq_of_lt (by omega), Nat.mod_eq_of_lt (by omega)]
  simpa [lowBits] using h

end Sys2Proof.Machine
end

