-- ==== Sys2Proof/Laws/Encoding.lean ====
section
/-! SUPPORT. Command words as numbers: what a field of a word, a concatenation, an encoded command and a range check are in
plain arithmetic (spec/30_encoding.md rules R61 to R65). -/

namespace Sys2Proof

/-- A concatenation as a number. -/
theorem append_toNat {m n : Nat} (x : BitVec m) (y : BitVec n) : (x ++ y).toNat = x.toNat * 2 ^ n + y.toNat := by
  rw [BitVec.toNat_append, ← Nat.shiftLeft_add_eq_or_of_lt y.isLt, Nat.shiftLeft_eq]

/-- A contiguous field as a number (R65). -/
theorem field_toNat {n : Nat} (x : BitVec n) (start len : Nat) :
    (x.extractLsb' start len).toNat = x.toNat / 2 ^ start % 2 ^ len := by
  simp [BitVec.extractLsb'_toNat, Nat.shiftRight_eq_div_pow]

theorem encodeN_toNat (op : BitVec 4) : (encodeN op).toNat = op.toNat := by
  simp only [encodeN, append_toNat]; simp

theorem encodeR_toNat (value : Byte) (fromW toW : Width) : (encodeR value fromW toW).toNat =
    value.toNat * 2 ^ 16 + toW.toNat * 2 ^ 12 + fromW.toNat * 2 ^ 8 + 1 := by
  simp only [encodeR, append_toNat]; simp; omega

theorem encodeW_toNat (w : Widths) (op : BitVec 4) : (encodeW w op).toNat =
    w.a.toNat * 2 ^ 20 + w.r.toNat * 2 ^ 16 + w.g.toNat * 2 ^ 12 + w.b.toNat * 2 ^ 8 + op.toNat := by
  simp only [encodeW, append_toNat]; simp; omega

theorem encodeP_toNat (n : BitVec 9) : (encodeP n).toNat = n.toNat * 2 ^ 8 + 7 := by
  simp only [encodeP, append_toNat]; simp; omega

/-- The range check of one width (R62, R63). -/
theorem Width.ok_iff (w : Width) : Width.ok w = true ↔ w.toNat ≤ 8 := by
  simp [Width.ok, Config.maxWidth, BitVec.le_def]

/-- The range check of a width tuple (R63). -/
theorem Widths.ok_iff (w : Widths) :
    w.ok = true ↔ w.a.toNat ≤ 8 ∧ w.r.toNat ≤ 8 ∧ w.g.toNat ≤ 8 ∧ w.b.toNat ≤ 8 := by
  simp [Widths.ok, Width.ok_iff, and_assoc]

theorem reservedN_zero_iff (w : Word) : reservedN w = 0 ↔ w.toNat / 2 ^ 8 = 0 := by
  have hw := w.isLt
  rw [← BitVec.toNat_inj, reservedN, field_toNat]; simp; omega

theorem reservedRW_zero_iff (w : Word) : reservedRW w = 0 ↔ w.toNat / 2 ^ 24 = 0 := by
  have hw := w.isLt
  rw [← BitVec.toNat_inj, reservedRW, field_toNat]; simp; omega

theorem reservedP_zero_iff (w : Word) : reservedP w = 0 ↔ w.toNat / 2 ^ 17 = 0 := by
  have hw := w.isLt
  rw [← BitVec.toNat_inj, reservedP, field_toNat]; simp; omega

theorem lowReserved_zero_iff (w : Word) : lowReserved w = 0 ↔ w.toNat / 2 ^ 4 % 16 = 0 := by
  rw [← BitVec.toNat_inj, lowReserved, field_toNat]; simp

theorem opField_toNat (w : Word) : (opField w).toNat = w.toNat % 16 := by simp [opField]

/-- The reserved bits of an encoded format W word are zero (R63). -/
theorem reservedRW_encodeW (w : Widths) (op : BitVec 4) : reservedRW (encodeW w op) = 0 := by
  rw [reservedRW_zero_iff, encodeW_toNat]
  have ha := w.a.isLt; have hr := w.r.isLt; have hg := w.g.isLt; have hb := w.b.isLt; have ho := op.isLt
  omega

/-- The width fields of an encoded format W word are its widths (R63, R65). -/
theorem widthsField_encodeW (w : Widths) (op : BitVec 4) : widthsField (encodeW w op) = w := by
  have e := encodeW_toNat w op
  have ha := w.a.isLt; have hr := w.r.isLt; have hg := w.g.isLt; have hb := w.b.isLt; have ho := op.isLt
  rcases w with ⟨a, r, g, b⟩
  simp only [widthsField, Widths.mk.injEq]
  refine ⟨?_, ?_, ?_, ?_⟩ <;> apply BitVec.eq_of_toNat_eq <;> simp only [field_toNat, e] <;> dsimp only at * <;> omega

end Sys2Proof
end

