-- ==== Sys2Proof/Laws/State.lean ====
section
/-! SUPPORT. One lemma per field per update of State: an update changes its own field and no other. -/

namespace Sys2Proof.Machine

/-! ## setColor -/

@[simp] theorem State.setColor_color (s : State) (v : Word) : (s.setColor v).color = v := rfl
@[simp] theorem State.setColor_raw (s : State) (v : Word) : (s.setColor v).raw = s.raw := rfl
@[simp] theorem State.setColor_val (s : State) (v : Word) : (s.setColor v).val = s.val := rfl
@[simp] theorem State.setColor_plen (s : State) (v : Word) : (s.setColor v).plen = s.plen := rfl
@[simp] theorem State.setColor_pclass (s : State) (v : Word) : (s.setColor v).pclass = s.pclass := rfl
@[simp] theorem State.setColor_status (s : State) (v : Word) : (s.setColor v).status = s.status := rfl
@[simp] theorem State.setColor_pal (s : State) (v : Word) : (s.setColor v).pal = s.pal := rfl
@[simp] theorem State.setColor_palPast (s : State) (v : Word) : (s.setColor v).palPast = s.palPast := rfl
@[simp] theorem State.setColor_script (s : State) (v : Word) : (s.setColor v).script = s.script := rfl
@[simp] theorem State.setColor_reads (s : State) (v : Word) : (s.setColor v).reads = s.reads := rfl

/-! ## setRaw -/

@[simp] theorem State.setRaw_color (s : State) (v : Word) : (s.setRaw v).color = s.color := rfl
@[simp] theorem State.setRaw_raw (s : State) (v : Word) : (s.setRaw v).raw = v := rfl
@[simp] theorem State.setRaw_val (s : State) (v : Word) : (s.setRaw v).val = s.val := rfl
@[simp] theorem State.setRaw_plen (s : State) (v : Word) : (s.setRaw v).plen = s.plen := rfl
@[simp] theorem State.setRaw_pclass (s : State) (v : Word) : (s.setRaw v).pclass = s.pclass := rfl
@[simp] theorem State.setRaw_status (s : State) (v : Word) : (s.setRaw v).status = s.status := rfl
@[simp] theorem State.setRaw_pal (s : State) (v : Word) : (s.setRaw v).pal = s.pal := rfl
@[simp] theorem State.setRaw_palPast (s : State) (v : Word) : (s.setRaw v).palPast = s.palPast := rfl
@[simp] theorem State.setRaw_script (s : State) (v : Word) : (s.setRaw v).script = s.script := rfl
@[simp] theorem State.setRaw_reads (s : State) (v : Word) : (s.setRaw v).reads = s.reads := rfl

/-! ## setVal -/

@[simp] theorem State.setVal_color (s : State) (v : Byte) : (s.setVal v).color = s.color := rfl
@[simp] theorem State.setVal_raw (s : State) (v : Byte) : (s.setVal v).raw = s.raw := rfl
@[simp] theorem State.setVal_val (s : State) (v : Byte) : (s.setVal v).val = v := rfl
@[simp] theorem State.setVal_plen (s : State) (v : Byte) : (s.setVal v).plen = s.plen := rfl
@[simp] theorem State.setVal_pclass (s : State) (v : Byte) : (s.setVal v).pclass = s.pclass := rfl
@[simp] theorem State.setVal_status (s : State) (v : Byte) : (s.setVal v).status = s.status := rfl
@[simp] theorem State.setVal_pal (s : State) (v : Byte) : (s.setVal v).pal = s.pal := rfl
@[simp] theorem State.setVal_palPast (s : State) (v : Byte) : (s.setVal v).palPast = s.palPast := rfl
@[simp] theorem State.setVal_script (s : State) (v : Byte) : (s.setVal v).script = s.script := rfl
@[simp] theorem State.setVal_reads (s : State) (v : Byte) : (s.setVal v).reads = s.reads := rfl

/-! ## setPlen -/

@[simp] theorem State.setPlen_color (s : State) (n : BitVec 9) : (s.setPlen n).color = s.color := rfl
@[simp] theorem State.setPlen_raw (s : State) (n : BitVec 9) : (s.setPlen n).raw = s.raw := rfl
@[simp] theorem State.setPlen_val (s : State) (n : BitVec 9) : (s.setPlen n).val = s.val := rfl
@[simp] theorem State.setPlen_plen (s : State) (n : BitVec 9) : (s.setPlen n).plen = n := rfl
@[simp] theorem State.setPlen_pclass (s : State) (n : BitVec 9) : (s.setPlen n).pclass = s.pclass := rfl
@[simp] theorem State.setPlen_status (s : State) (n : BitVec 9) : (s.setPlen n).status = s.status := rfl
@[simp] theorem State.setPlen_pal (s : State) (n : BitVec 9) : (s.setPlen n).pal = s.pal := rfl
@[simp] theorem State.setPlen_palPast (s : State) (n : BitVec 9) : (s.setPlen n).palPast = s.palPast := rfl
@[simp] theorem State.setPlen_script (s : State) (n : BitVec 9) : (s.setPlen n).script = s.script := rfl
@[simp] theorem State.setPlen_reads (s : State) (n : BitVec 9) : (s.setPlen n).reads = s.reads := rfl

/-! ## setPclass -/

@[simp] theorem State.setPclass_color (s : State) (p : PClass) : (s.setPclass p).color = s.color := rfl
@[simp] theorem State.setPclass_raw (s : State) (p : PClass) : (s.setPclass p).raw = s.raw := rfl
@[simp] theorem State.setPclass_val (s : State) (p : PClass) : (s.setPclass p).val = s.val := rfl
@[simp] theorem State.setPclass_plen (s : State) (p : PClass) : (s.setPclass p).plen = s.plen := rfl
@[simp] theorem State.setPclass_pclass (s : State) (p : PClass) : (s.setPclass p).pclass = p := rfl
@[simp] theorem State.setPclass_status (s : State) (p : PClass) : (s.setPclass p).status = s.status := rfl
@[simp] theorem State.setPclass_pal (s : State) (p : PClass) : (s.setPclass p).pal = s.pal := rfl
@[simp] theorem State.setPclass_palPast (s : State) (p : PClass) : (s.setPclass p).palPast = s.palPast := rfl
@[simp] theorem State.setPclass_script (s : State) (p : PClass) : (s.setPclass p).script = s.script := rfl
@[simp] theorem State.setPclass_reads (s : State) (p : PClass) : (s.setPclass p).reads = s.reads := rfl

/-! ## setStatus -/

@[simp] theorem State.setStatus_color (s : State) (t : Status) : (s.setStatus t).color = s.color := rfl
@[simp] theorem State.setStatus_raw (s : State) (t : Status) : (s.setStatus t).raw = s.raw := rfl
@[simp] theorem State.setStatus_val (s : State) (t : Status) : (s.setStatus t).val = s.val := rfl
@[simp] theorem State.setStatus_plen (s : State) (t : Status) : (s.setStatus t).plen = s.plen := rfl
@[simp] theorem State.setStatus_pclass (s : State) (t : Status) : (s.setStatus t).pclass = s.pclass := rfl
@[simp] theorem State.setStatus_status (s : State) (t : Status) : (s.setStatus t).status = t := rfl
@[simp] theorem State.setStatus_pal (s : State) (t : Status) : (s.setStatus t).pal = s.pal := rfl
@[simp] theorem State.setStatus_palPast (s : State) (t : Status) : (s.setStatus t).palPast = s.palPast := rfl
@[simp] theorem State.setStatus_script (s : State) (t : Status) : (s.setStatus t).script = s.script := rfl
@[simp] theorem State.setStatus_reads (s : State) (t : Status) : (s.setStatus t).reads = s.reads := rfl

/-! ## setPal -/

@[simp] theorem State.setPal_color (s : State) (m : Memory) : (s.setPal m).color = s.color := rfl
@[simp] theorem State.setPal_raw (s : State) (m : Memory) : (s.setPal m).raw = s.raw := rfl
@[simp] theorem State.setPal_val (s : State) (m : Memory) : (s.setPal m).val = s.val := rfl
@[simp] theorem State.setPal_plen (s : State) (m : Memory) : (s.setPal m).plen = s.plen := rfl
@[simp] theorem State.setPal_pclass (s : State) (m : Memory) : (s.setPal m).pclass = s.pclass := rfl
@[simp] theorem State.setPal_status (s : State) (m : Memory) : (s.setPal m).status = s.status := rfl
@[simp] theorem State.setPal_pal (s : State) (m : Memory) : (s.setPal m).pal = m := rfl
@[simp] theorem State.setPal_palPast (s : State) (m : Memory) : (s.setPal m).palPast = s.palPast := rfl
@[simp] theorem State.setPal_script (s : State) (m : Memory) : (s.setPal m).script = s.script := rfl
@[simp] theorem State.setPal_reads (s : State) (m : Memory) : (s.setPal m).reads = s.reads := rfl

/-! ## setScript -/

@[simp] theorem State.setScript_color (s : State) (ms : List HostMove) : (s.setScript ms).color = s.color := rfl
@[simp] theorem State.setScript_raw (s : State) (ms : List HostMove) : (s.setScript ms).raw = s.raw := rfl
@[simp] theorem State.setScript_val (s : State) (ms : List HostMove) : (s.setScript ms).val = s.val := rfl
@[simp] theorem State.setScript_plen (s : State) (ms : List HostMove) : (s.setScript ms).plen = s.plen := rfl
@[simp] theorem State.setScript_pclass (s : State) (ms : List HostMove) : (s.setScript ms).pclass = s.pclass := rfl
@[simp] theorem State.setScript_status (s : State) (ms : List HostMove) : (s.setScript ms).status = s.status := rfl
@[simp] theorem State.setScript_pal (s : State) (ms : List HostMove) : (s.setScript ms).pal = s.pal := rfl
@[simp] theorem State.setScript_palPast (s : State) (ms : List HostMove) : (s.setScript ms).palPast = s.palPast := rfl
@[simp] theorem State.setScript_script (s : State) (ms : List HostMove) : (s.setScript ms).script = ms := rfl
@[simp] theorem State.setScript_reads (s : State) (ms : List HostMove) : (s.setScript ms).reads = s.reads := rfl

/-! ## pushRead -/

@[simp] theorem State.pushRead_color (s : State) (v : Word) : (s.pushRead v).color = s.color := rfl
@[simp] theorem State.pushRead_raw (s : State) (v : Word) : (s.pushRead v).raw = s.raw := rfl
@[simp] theorem State.pushRead_val (s : State) (v : Word) : (s.pushRead v).val = s.val := rfl
@[simp] theorem State.pushRead_plen (s : State) (v : Word) : (s.pushRead v).plen = s.plen := rfl
@[simp] theorem State.pushRead_pclass (s : State) (v : Word) : (s.pushRead v).pclass = s.pclass := rfl
@[simp] theorem State.pushRead_status (s : State) (v : Word) : (s.pushRead v).status = s.status := rfl
@[simp] theorem State.pushRead_pal (s : State) (v : Word) : (s.pushRead v).pal = s.pal := rfl
@[simp] theorem State.pushRead_palPast (s : State) (v : Word) : (s.pushRead v).palPast = s.palPast := rfl
@[simp] theorem State.pushRead_script (s : State) (v : Word) : (s.pushRead v).script = s.script := rfl
@[simp] theorem State.pushRead_reads (s : State) (v : Word) : (s.pushRead v).reads = v :: s.reads := rfl

/-! ## withHost -/

@[simp] theorem State.withHost_color (s : State) (ms : List HostMove) (ws : List Word) : (s.withHost ms ws).color = s.color := rfl
@[simp] theorem State.withHost_raw (s : State) (ms : List HostMove) (ws : List Word) : (s.withHost ms ws).raw = s.raw := rfl
@[simp] theorem State.withHost_val (s : State) (ms : List HostMove) (ws : List Word) : (s.withHost ms ws).val = s.val := rfl
@[simp] theorem State.withHost_plen (s : State) (ms : List HostMove) (ws : List Word) : (s.withHost ms ws).plen = s.plen := rfl
@[simp] theorem State.withHost_pclass (s : State) (ms : List HostMove) (ws : List Word) : (s.withHost ms ws).pclass = s.pclass := rfl
@[simp] theorem State.withHost_status (s : State) (ms : List HostMove) (ws : List Word) : (s.withHost ms ws).status = s.status := rfl
@[simp] theorem State.withHost_pal (s : State) (ms : List HostMove) (ws : List Word) : (s.withHost ms ws).pal = s.pal := rfl
@[simp] theorem State.withHost_palPast (s : State) (ms : List HostMove) (ws : List Word) : (s.withHost ms ws).palPast = s.palPast := rfl
@[simp] theorem State.withHost_script (s : State) (ms : List HostMove) (ws : List Word) : (s.withHost ms ws).script = ms := rfl
@[simp] theorem State.withHost_reads (s : State) (ms : List HostMove) (ws : List Word) : (s.withHost ms ws).reads = ws := rfl
@[simp] theorem State.withHost_palAt (s : State) (ms : List HostMove) (ws : List Word) (i : Nat) : (s.withHost ms ws).palAt i = s.palAt i := rfl
@[simp] theorem State.withHost_palette (s : State) (ms : List HostMove) (ws : List Word) : (s.withHost ms ws).palette = s.palette := rfl
@[simp] theorem State.withHost_toPcu (s : State) (ms : List HostMove) (ws : List Word) : (s.withHost ms ws).toPcu = s.toPcu := rfl
@[simp] theorem State.withHost_self (s : State) : s.withHost s.script s.reads = s := rfl

/-! ## complete, raise, writePal, afterReset -/

@[simp] theorem State.complete_color (s : State) : s.complete.color = s.color := rfl
@[simp] theorem State.complete_raw (s : State) : s.complete.raw = s.raw := rfl
@[simp] theorem State.complete_val (s : State) : s.complete.val = s.val := rfl
@[simp] theorem State.complete_plen (s : State) : s.complete.plen = s.plen := rfl
@[simp] theorem State.complete_pclass (s : State) : s.complete.pclass = s.pclass := rfl
@[simp] theorem State.complete_pal (s : State) : s.complete.pal = s.pal := rfl
@[simp] theorem State.complete_palPast (s : State) : s.complete.palPast = s.palPast := rfl
@[simp] theorem State.complete_script (s : State) : s.complete.script = s.script := rfl
@[simp] theorem State.complete_reads (s : State) : s.complete.reads = s.reads := rfl
@[simp] theorem State.complete_status (s : State) : s.complete.status = { s.status with last := .ok } := rfl

@[simp] theorem State.raise_color (s : State) (e : CmdError) : (s.raise e).color = s.color := rfl
@[simp] theorem State.raise_raw (s : State) (e : CmdError) : (s.raise e).raw = s.raw := rfl
@[simp] theorem State.raise_val (s : State) (e : CmdError) : (s.raise e).val = s.val := rfl
@[simp] theorem State.raise_plen (s : State) (e : CmdError) : (s.raise e).plen = s.plen := rfl
@[simp] theorem State.raise_pclass (s : State) (e : CmdError) : (s.raise e).pclass = s.pclass := rfl
@[simp] theorem State.raise_pal (s : State) (e : CmdError) : (s.raise e).pal = s.pal := rfl
@[simp] theorem State.raise_palPast (s : State) (e : CmdError) : (s.raise e).palPast = s.palPast := rfl
@[simp] theorem State.raise_script (s : State) (e : CmdError) : (s.raise e).script = s.script := rfl
@[simp] theorem State.raise_reads (s : State) (e : CmdError) : (s.raise e).reads = s.reads := rfl
@[simp] theorem State.raise_last (s : State) (e : CmdError) : (s.raise e).status.last = .failed e := rfl
@[simp] theorem State.raise_first (s : State) (e : CmdError) : (s.raise e).status.first = stickyFirst s.status.first e := rfl

@[simp] theorem State.writePal_color (s : State) (i : Byte) (v : Word) : (s.writePal i v).color = s.color := rfl
@[simp] theorem State.writePal_raw (s : State) (i : Byte) (v : Word) : (s.writePal i v).raw = s.raw := rfl
@[simp] theorem State.writePal_val (s : State) (i : Byte) (v : Word) : (s.writePal i v).val = s.val := rfl
@[simp] theorem State.writePal_plen (s : State) (i : Byte) (v : Word) : (s.writePal i v).plen = s.plen := rfl
@[simp] theorem State.writePal_pclass (s : State) (i : Byte) (v : Word) : (s.writePal i v).pclass = PClass.cleared := rfl
@[simp] theorem State.writePal_status (s : State) (i : Byte) (v : Word) : (s.writePal i v).status = s.status := rfl
@[simp] theorem State.writePal_pal (s : State) (i : Byte) (v : Word) : (s.writePal i v).pal = Memory.store s.pal i.toNat v := rfl
@[simp] theorem State.writePal_palPast (s : State) (i : Byte) (v : Word) : (s.writePal i v).palPast = s.palPast := rfl
@[simp] theorem State.writePal_script (s : State) (i : Byte) (v : Word) : (s.writePal i v).script = s.script := rfl
@[simp] theorem State.writePal_reads (s : State) (i : Byte) (v : Word) : (s.writePal i v).reads = s.reads := rfl

@[simp] theorem State.afterReset_color (s : State) : s.afterReset.color = State.reset.color := rfl
@[simp] theorem State.afterReset_raw (s : State) : s.afterReset.raw = State.reset.raw := rfl
@[simp] theorem State.afterReset_val (s : State) : s.afterReset.val = State.reset.val := rfl
@[simp] theorem State.afterReset_plen (s : State) : s.afterReset.plen = State.reset.plen := rfl
@[simp] theorem State.afterReset_pclass (s : State) : s.afterReset.pclass = State.reset.pclass := rfl
@[simp] theorem State.afterReset_status (s : State) : s.afterReset.status = State.reset.status := rfl
@[simp] theorem State.afterReset_pal (s : State) : s.afterReset.pal = State.reset.pal := rfl
@[simp] theorem State.afterReset_palPast (s : State) : s.afterReset.palPast = s.pal :: s.palPast := rfl
@[simp] theorem State.afterReset_script (s : State) : s.afterReset.script = s.script := rfl
@[simp] theorem State.afterReset_reads (s : State) : s.afterReset.reads = s.reads := rfl

/-! ## PAL[i] and the palette depend on pal, palPast and PLEN only -/

@[simp] theorem State.setColor_palAt (s : State) (v : Word) (i : Nat) : (s.setColor v).palAt i = s.palAt i := rfl
@[simp] theorem State.setRaw_palAt (s : State) (v : Word) (i : Nat) : (s.setRaw v).palAt i = s.palAt i := rfl
@[simp] theorem State.setVal_palAt (s : State) (v : Byte) (i : Nat) : (s.setVal v).palAt i = s.palAt i := rfl
@[simp] theorem State.setPlen_palAt (s : State) (n : BitVec 9) (i : Nat) : (s.setPlen n).palAt i = s.palAt i := rfl
@[simp] theorem State.setPclass_palAt (s : State) (p : PClass) (i : Nat) : (s.setPclass p).palAt i = s.palAt i := rfl
@[simp] theorem State.setStatus_palAt (s : State) (t : Status) (i : Nat) : (s.setStatus t).palAt i = s.palAt i := rfl
@[simp] theorem State.setScript_palAt (s : State) (ms : List HostMove) (i : Nat) : (s.setScript ms).palAt i = s.palAt i := rfl
@[simp] theorem State.pushRead_palAt (s : State) (v : Word) (i : Nat) : (s.pushRead v).palAt i = s.palAt i := rfl
@[simp] theorem State.complete_palAt (s : State) (i : Nat) : s.complete.palAt i = s.palAt i := rfl
@[simp] theorem State.raise_palAt (s : State) (e : CmdError) (i : Nat) : (s.raise e).palAt i = s.palAt i := rfl

@[simp] theorem State.setColor_palette (s : State) (v : Word) : (s.setColor v).palette = s.palette := rfl
@[simp] theorem State.setRaw_palette (s : State) (v : Word) : (s.setRaw v).palette = s.palette := rfl
@[simp] theorem State.setVal_palette (s : State) (v : Byte) : (s.setVal v).palette = s.palette := rfl
@[simp] theorem State.setPclass_palette (s : State) (p : PClass) : (s.setPclass p).palette = s.palette := rfl
@[simp] theorem State.setStatus_palette (s : State) (t : Status) : (s.setStatus t).palette = s.palette := rfl
@[simp] theorem State.setScript_palette (s : State) (ms : List HostMove) : (s.setScript ms).palette = s.palette := rfl
@[simp] theorem State.pushRead_palette (s : State) (v : Word) : (s.pushRead v).palette = s.palette := rfl
@[simp] theorem State.complete_palette (s : State) : s.complete.palette = s.palette := rfl
@[simp] theorem State.raise_palette (s : State) (e : CmdError) : (s.raise e).palette = s.palette := rfl

end Sys2Proof.Machine
end

