-- ==== Sys2Proof/Laws/Ops.lean ====
section
/-! SUPPORT. What the shared operations can do: completing a command or raising an error, the legality check, and the flags. -/

namespace Sys2Proof.Machine

@[simp] theorem runCommand_ok (s t : State) : runCommand s (.ok t) = .next t.complete := rfl

@[simp] theorem runCommand_error (s : State) (e : CmdError) : runCommand s (.error e) = .next (s.raise e) := rfl

/-- Everything `runCommand` can do: complete with the command's writes, or raise its error on the state before them. -/
theorem runCommand_cases (s : State) (effect : Except CmdError State) :
    (∃ t, effect = .ok t ∧ runCommand s effect = .next t.complete) ∨
      (∃ e, effect = .error e ∧ runCommand s effect = .next (s.raise e)) := by
  cases effect with
  | ok t => exact .inl ⟨t, rfl, rfl⟩
  | error e => exact .inr ⟨e, rfl, rfl⟩

theorem ifLegal_true {i : Instr} (t : State) (h : i.wellFormed = true) : ifLegal i t = .ok t := by simp [ifLegal, h]

theorem ifLegal_false {i : Instr} (t : State) (h : i.wellFormed = false) : ifLegal i t = .error .illegalCommand := by
  simp [ifLegal, h]

@[simp] theorem stickyFirst_ok (e : CmdError) : stickyFirst .ok e = .failed e := rfl

@[simp] theorem stickyFirst_failed (f e : CmdError) : stickyFirst (.failed f) e = .failed f := rfl

theorem stickyFirst_ne_ok (first : StatusCode) (e : CmdError) : stickyFirst first e ≠ .ok := by
  cases first <;> simp

/-- Raising the same error again changes nothing: LAST holds it, and FIRST is sticky (R143, R146). -/
@[simp] theorem State.raise_raise (s : State) (e : CmdError) : (s.raise e).raise e = s.raise e := by
  cases h : s.status.first <;> simp [State.raise, State.setStatus, h]

/-- A palette address names the entry `addr - 0x100` (R42). -/
theorem target_pal {addr : Addr} (h : 0x100 ≤ addr) : target addr = .pal (addr.extractLsb' 0 8) := by
  unfold target; rw [if_pos h]

/-- An address between the registers and the palette is reserved (R42, R43). -/
theorem target_reserved {addr : Addr} (h : 8 ≤ addr) (h' : addr < 0x100) : target addr = .reserved := by
  unfold target
  rw [if_neg (by simpa [BitVec.not_le] using h')]
  have h8 : 8 ≤ addr.toNat := by simpa [BitVec.le_def] using h
  split <;> first | omega | rfl

/-- The eight registers (R42). -/
theorem target_registers : target 0 = .cmd ∧ target 1 = .status ∧ target 2 = .color ∧ target 3 = .raw ∧
    target 4 = .val ∧ target 5 = .plen ∧ target 6 = .pclass ∧ target 7 = .id := by decide

/-- Every address is one of the eight registers, reserved, or a palette entry (R42). -/
theorem target_cases (addr : Addr) :
    addr = 0 ∨ addr = 1 ∨ addr = 2 ∨ addr = 3 ∨ addr = 4 ∨ addr = 5 ∨ addr = 6 ∨ addr = 7 ∨
      (8 ≤ addr ∧ addr < 0x100) ∨ 0x100 ≤ addr := by
  simp only [← BitVec.toNat_inj, BitVec.le_def, BitVec.lt_def, BitVec.reduceToNat]
  omega

/-- Only address 0 is CMD (R42). -/
theorem target_cmd {addr : Addr} (h : target addr = .cmd) : addr = 0 := by
  rcases target_cases addr with rfl | rfl | rfl | rfl | rfl | rfl | rfl | rfl | ⟨h1, h2⟩ | h1
  · rfl
  all_goals first
    | (exfalso; revert h; decide)
    | (rw [target_reserved h1 h2] at h; cases h)
    | (rw [target_pal h1] at h; cases h)

end Sys2Proof.Machine
end

