-- ==== Sys2Proof/Laws/Exec.lean ====
section
/-! SUPPORT. What executing a command, a host move and a step can do, said once. -/

namespace Sys2Proof.Machine

/-- CLASSIFY of an empty palette (R114). -/
theorem exec_classify_empty {s : State} (h : s.plen = 0) : exec .classify s = .next (s.raise .emptyPalette) := by
  unfold exec execClassify classifyEffect
  rw [if_pos h]; rfl

/-- CLASSIFY of a palette (R114). -/
theorem exec_classify_some {s : State} (h : s.plen ≠ 0) :
    exec .classify s = .next (s.setPclass (classOf s.palette)).complete := by
  unfold exec execClassify classifyEffect
  rw [if_neg h]; rfl

/-- MATCH with an empty palette (R119). -/
theorem exec_match_empty {s : State} (h : s.plen = 0) : exec .matchColor s = .next (s.raise .emptyPalette) := by
  unfold exec execMatch matchEffect
  rw [if_pos h]; rfl

/-- MATCH when the scan skips every entry (R119). -/
theorem exec_match_none {s : State} (h : s.plen ≠ 0) (hn : nearest s.color s.palette = none) :
    exec .matchColor s = .next (s.raise .noCandidate) := by
  unfold exec execMatch matchEffect
  rw [if_neg h, hn]; rfl

/-- MATCH when the scan finds an entry (R119). -/
theorem exec_match_some {s : State} {best : Nat} (h : s.plen ≠ 0) (hn : nearest s.color s.palette = some best) :
    exec .matchColor s = .next (s.setRaw (BitVec.ofNat 32 best)).complete := by
  unfold exec execMatch matchEffect
  rw [if_neg h, hn]; rfl

/-- Everything a command can do: raise an error on the state as it was, or complete after writing at most one of COLOR, RAW,
VAL, PLEN with PCLASS cleared, PCLASS, or STATUS. -/
theorem exec_cases (i : Instr) (s : State) :
    (∃ e, exec i s = .next (s.raise e)) ∨
    (∃ v, exec i s = .next (s.setColor v).complete) ∨
    (∃ v, exec i s = .next (s.setRaw v).complete) ∨
    (∃ v, exec i s = .next (s.setVal v).complete) ∨
    (∃ n, i = .setPlen n ∧ n ≤ 256 ∧ exec i s = .next ((s.setPlen n).setPclass PClass.cleared).complete) ∨
    (i = .classify ∧ s.plen ≠ 0 ∧ exec i s = .next (s.setPclass (classOf s.palette)).complete) ∨
    (i = .nop ∧ exec i s = .next s.complete) ∨
    (i = .clrErr ∧ exec i s = .next (s.setStatus { last := .ok, first := .ok })) := by
  have legal : ∀ (j : Instr) (t : State), (∃ e, runCommand s (ifLegal j t) = .next (s.raise e)) ∨
      (j.wellFormed = true ∧ runCommand s (ifLegal j t) = .next t.complete) := by
    intro j t
    cases h : j.wellFormed with
    | true => exact .inr ⟨rfl, by rw [ifLegal_true t h]; rfl⟩
    | false => exact .inl ⟨_, by rw [ifLegal_false t h]; rfl⟩
  cases i with
  | nop => exact .inr (.inr (.inr (.inr (.inr (.inr (.inl ⟨rfl, rfl⟩))))))
  | rescale value fromW toW =>
    rcases legal (.rescale value fromW toW) (s.setVal (rescale (lowBits value fromW) fromW toW)) with h | ⟨-, h⟩
    · exact .inl h
    · exact .inr (.inr (.inr (.inl ⟨_, h⟩)))
  | pack w =>
    rcases legal (.pack w) (s.setRaw (pack (channelsOf s.color) w)) with h | ⟨-, h⟩
    · exact .inl h
    · exact .inr (.inr (.inl ⟨_, h⟩))
  | unpack w =>
    rcases legal (.unpack w) (s.setColor (colorOf (unpack s.raw w))) with h | ⟨-, h⟩
    · exact .inl h
    · exact .inr (.inl ⟨_, h⟩)
  | encode w =>
    rcases legal (.encode w) (s.setRaw (pack (toNative (channelsOf s.color) w) w)) with h | ⟨-, h⟩
    · exact .inl h
    · exact .inr (.inr (.inl ⟨_, h⟩))
  | decode w =>
    rcases legal (.decode w) (s.setColor (colorOf (toCanonical (unpack s.raw w) w))) with h | ⟨-, h⟩
    · exact .inl h
    · exact .inr (.inl ⟨_, h⟩)
  | luma => exact .inr (.inr (.inr (.inl ⟨_, rfl⟩)))
  | setPlen n =>
    rcases legal (.setPlen n) ((s.setPlen n).setPclass PClass.cleared) with h | ⟨hw, h⟩
    · exact .inl h
    · exact .inr (.inr (.inr (.inr (.inl ⟨n, rfl, by simpa [Instr.wellFormed] using hw, h⟩))))
  | classify =>
    by_cases hp : s.plen = 0
    · exact .inl ⟨.emptyPalette, exec_classify_empty hp⟩
    · exact .inr (.inr (.inr (.inr (.inr (.inl ⟨rfl, hp, exec_classify_some hp⟩)))))
  | matchColor =>
    by_cases hp : s.plen = 0
    · exact .inl ⟨.emptyPalette, exec_match_empty hp⟩
    · cases hn : nearest s.color s.palette with
      | none => exact .inl ⟨.noCandidate, exec_match_none hp hn⟩
      | some best => exact .inr (.inr (.inl ⟨_, exec_match_some hp hn⟩))
  | lookup => exact .inr (.inl ⟨_, rfl⟩)
  | clrErr => exact .inr (.inr (.inr (.inr (.inr (.inr (.inr ⟨rfl, rfl⟩))))))

/-- A command that leaves LAST non-zero did nothing but raise an error (R143). -/
theorem exec_failed {i : Instr} {s t : State} (h : exec i s = .next t) (hf : t.status.last ≠ .ok) :
    ∃ e, t = s.raise e := by
  rcases exec_cases i s with ⟨e, h'⟩ | ⟨v, h'⟩ | ⟨v, h'⟩ | ⟨v, h'⟩ | ⟨n, -, -, h'⟩ | ⟨-, -, h'⟩ | ⟨-, h'⟩ | ⟨-, h'⟩ <;>
    rw [h'] at h <;> cases h
  · exact ⟨e, rfl⟩
  all_goals exact absurd rfl hf

/-- No command writes the palette (R15, R133). -/
theorem exec_palAt {i : Instr} {s t : State} (h : exec i s = .next t) (j : Nat) : t.palAt j = s.palAt j := by
  rcases exec_cases i s with ⟨e, h'⟩ | ⟨v, h'⟩ | ⟨v, h'⟩ | ⟨v, h'⟩ | ⟨n, -, -, h'⟩ | ⟨-, -, h'⟩ | ⟨-, h'⟩ | ⟨-, h'⟩ <;>
    rw [h'] at h <;> cases h <;> rfl

/-- Commands neither read nor write the host's side (R25, R26): under another script and other reads a command does the same
to the PCU and leaves them. -/
theorem exec_withHost (i : Instr) (s : State) (ms : List HostMove) (ws : List Word) :
    ∃ t, exec i s = .next t ∧ exec i (s.withHost ms ws) = .next (t.withHost ms ws) := by
  have legal : ∀ (j : Instr) (t : State), ∃ u, runCommand s (ifLegal j t) = .next u ∧
      runCommand (s.withHost ms ws) (ifLegal j (t.withHost ms ws)) = .next (u.withHost ms ws) := by
    intro j t
    cases h : j.wellFormed with
    | true => rw [ifLegal_true _ h, ifLegal_true _ h]; exact ⟨_, rfl, rfl⟩
    | false => rw [ifLegal_false _ h, ifLegal_false _ h]; exact ⟨_, rfl, rfl⟩
  cases i with
  | rescale value fromW toW => exact legal _ (s.setVal _)
  | pack w => exact legal _ (s.setRaw _)
  | unpack w => exact legal _ (s.setColor _)
  | encode w => exact legal _ (s.setRaw _)
  | decode w => exact legal _ (s.setColor _)
  | setPlen n => exact legal _ ((s.setPlen n).setPclass _)
  | classify =>
    by_cases hp : s.plen = 0
    · exact ⟨_, exec_classify_empty hp, exec_classify_empty (s := s.withHost ms ws) hp⟩
    · exact ⟨_, exec_classify_some hp, exec_classify_some (s := s.withHost ms ws) hp⟩
  | matchColor =>
    by_cases hp : s.plen = 0
    · exact ⟨_, exec_match_empty hp, exec_match_empty (s := s.withHost ms ws) hp⟩
    · cases hn : nearest s.color s.palette with
      | none => exact ⟨_, exec_match_none hp hn, exec_match_none (s := s.withHost ms ws) hp hn⟩
      | some best => exact ⟨_, exec_match_some hp hn, exec_match_some (s := s.withHost ms ws) hp hn⟩
  | nop => exact ⟨_, rfl, rfl⟩
  | luma => exact ⟨_, rfl, rfl⟩
  | lookup => exact ⟨_, rfl, rfl⟩
  | clrErr => exact ⟨_, rfl, rfl⟩

/-- A step with a move to come performs it. -/
theorem step_move (s : State) (m : HostMove) (rest : List HostMove) (h : s.script = m :: rest) :
    step s = perform m (s.setScript rest) := by simp [step, h]

/-- A step with no move to come changes nothing. -/
theorem step_idle (s : State) (h : s.script = []) : step s = .next s := by simp [step, h]

/-- A legal word at CMD runs the command it decodes to. -/
theorem execWord_legal {w : Word} {i : Instr} (s : State) (h : decode w = some i) : execWord w s = exec i s := by
  simp [execWord, h]

/-- An illegal word at CMD raises IllegalCommand. -/
theorem execWord_illegal {w : Word} (s : State) (h : decode w = none) :
    execWord w s = .next (s.raise .illegalCommand) := by simp [execWord, h]

end Sys2Proof.Machine
end

