-- ==== Sys2Proof/Laws/Memory.lean ====
section
/-! SUPPORT. The palette cells: read after write, the canonical form is kept by every operation, and two palettes in canonical
form that read alike are equal. -/

namespace Sys2Proof.Machine

theorem Memory.find_store_same (m : Memory) (i : Nat) (x : Word) :
    Memory.find (Memory.store m i x) i = some x := by
  induction m with
  | nil => simp [Memory.store, Memory.find]
  | cons c m ih =>
    obtain ⟨k, v⟩ := c
    by_cases h1 : i < k
    · simp [Memory.store, Memory.find, h1]
    · by_cases h2 : i = k
      · simp [Memory.store, Memory.find, h2]
      · simp [Memory.store, Memory.find, h1, h2, Ne.symm h2, ih]

theorem Memory.find_store_ne (m : Memory) (i j : Nat) (x : Word) (h : j ≠ i) :
    Memory.find (Memory.store m i x) j = Memory.find m j := by
  induction m with
  | nil => simp [Memory.store, Memory.find, Ne.symm h]
  | cons c m ih =>
    obtain ⟨k, v⟩ := c
    by_cases h1 : i < k
    · simp [Memory.store, Memory.find, h1, Ne.symm h]
    · by_cases h2 : i = k
      · subst h2; simp [Memory.store, Memory.find, Ne.symm h]
      · simp [Memory.store, Memory.find, h1, h2, ih]

theorem Memory.wfFrom_mono {lo lo' : Nat} (m : Memory) (hle : lo' ≤ lo) (h : Memory.wfFrom lo m = true) :
    Memory.wfFrom lo' m = true := by
  cases m with
  | nil => rfl
  | cons c m =>
    obtain ⟨k, v⟩ := c
    simp only [Memory.wfFrom, Bool.and_eq_true, decide_eq_true_eq] at h ⊢
    exact ⟨⟨by omega, h.1.2⟩, h.2⟩

theorem Memory.wfFrom_store (m : Memory) {lo i : Nat} (x : Word) (hi : i < Config.palEntries) (hlo : lo ≤ i)
    (h : Memory.wfFrom lo m = true) : Memory.wfFrom lo (Memory.store m i x) = true := by
  induction m generalizing lo with
  | nil => simp [Memory.store, Memory.wfFrom, hi, hlo]
  | cons c m ih =>
    obtain ⟨k, v⟩ := c
    simp only [Memory.wfFrom, Bool.and_eq_true, decide_eq_true_eq] at h
    by_cases h1 : i < k
    · simp only [Memory.store, h1, if_true, Memory.wfFrom, Bool.and_eq_true, decide_eq_true_eq]
      exact ⟨⟨hlo, hi⟩, ⟨by omega, h.1.2⟩, h.2⟩
    · by_cases h2 : i = k
      · subst h2
        simp only [Memory.store, Nat.lt_irrefl, if_false, if_true, Memory.wfFrom, Bool.and_eq_true, decide_eq_true_eq]
        exact h
      · simp only [Memory.store, h1, h2, if_false, Memory.wfFrom, Bool.and_eq_true, decide_eq_true_eq]
        exact ⟨h.1, ih (by omega) h.2⟩

/-- The reset palette is in canonical form. -/
theorem Memory.wf_nil : Memory.wf [] = true := rfl

/-- A write keeps the canonical form. -/
theorem Memory.wf_store (m : Memory) (i : Byte) (x : Word) (h : Memory.wf m = true) :
    Memory.wf (Memory.store m i.toNat x) = true :=
  Memory.wfFrom_store m x (by simpa [Config.palEntries] using i.isLt) (Nat.zero_le _) h

theorem Memory.find_none_of_lt (m : Memory) {lo i : Nat} (h : Memory.wfFrom lo m = true) (hi : i < lo) :
    Memory.find m i = none := by
  induction m generalizing lo with
  | nil => rfl
  | cons c m ih =>
    obtain ⟨k, v⟩ := c
    simp only [Memory.wfFrom, Bool.and_eq_true, decide_eq_true_eq] at h
    have hne : ¬ k = i := by omega
    simp [Memory.find, hne, ih h.2 (by omega)]

theorem Memory.ext_wfFrom (m n : Memory) {lo : Nat} (hm : Memory.wfFrom lo m = true) (hn : Memory.wfFrom lo n = true)
    (h : ∀ i, Memory.find m i = Memory.find n i) : m = n := by
  induction m generalizing n lo with
  | nil =>
    cases n with
    | nil => rfl
    | cons c n => obtain ⟨k, v⟩ := c; simpa [Memory.find] using h k
  | cons c m ih =>
    obtain ⟨k, v⟩ := c
    cases n with
    | nil => simpa [Memory.find] using h k
    | cons d n =>
      obtain ⟨k', v'⟩ := d
      simp only [Memory.wfFrom, Bool.and_eq_true, decide_eq_true_eq] at hm hn
      have hk : k = k' := by
        rcases Nat.lt_trichotomy k k' with hlt | heq | hgt
        · have := h k
          simp [Memory.find, Nat.ne_of_gt hlt, Memory.find_none_of_lt n hn.2 (show k < k' + 1 by omega)] at this
        · exact heq
        · have := h k'
          simp [Memory.find, Nat.ne_of_gt hgt, Memory.find_none_of_lt m hm.2 (show k' < k + 1 by omega)] at this
      subst hk
      have hv : v = v' := by simpa [Memory.find] using h k
      subst hv
      have htail : m = n := by
        refine ih n hm.2 hn.2 fun i => ?_
        by_cases hi : k = i
        · subst hi
          rw [Memory.find_none_of_lt m hm.2 (by omega), Memory.find_none_of_lt n hn.2 (by omega)]
        · simpa [Memory.find, hi] using h i
      rw [htail]

/-- Palettes in canonical form that read alike are the same list. -/
theorem Memory.ext_wf (m n : Memory) (hm : Memory.wf m = true) (hn : Memory.wf n = true)
    (h : ∀ i, Memory.find m i = Memory.find n i) : m = n :=
  Memory.ext_wfFrom m n hm hn h

/-- A written entry reads as the word written. -/
theorem State.palAt_writePal_same (s : State) (i : Byte) (v : Word) : (s.writePal i v).palAt i.toNat = v := by
  simp [State.palAt, State.writePal, Memory.find_store_same]

/-- Every other entry reads as before. -/
theorem State.palAt_writePal_ne (s : State) (i : Byte) (v : Word) (j : Nat) (h : j ≠ i.toNat) :
    (s.writePal i v).palAt j = s.palAt j := by
  simp [State.palAt, State.palUnwritten, State.writePal, Memory.find_store_ne _ _ _ _ h]

/-- An entry the palette does not list reads as the free value PAL_RESET of the draw in force. -/
theorem State.palAt_unwritten (s : State) (i : Nat) (h : Memory.find s.pal i = none) :
    s.palAt i = Config.palReset s.palPast i := by
  simp [State.palAt, State.palUnwritten, h]

/-- Membership in the palette the matcher sees: the entries below PLEN. -/
theorem State.mem_palette (s : State) (p : Word) : p ∈ s.palette ↔ ∃ i, i < s.plen.toNat ∧ s.palAt i = p := by
  simp [State.palette]

@[simp] theorem State.palette_length (s : State) : s.palette.length = s.plen.toNat := by simp [State.palette]

@[simp] theorem State.palette_getElem (s : State) (i : Nat) (h : i < s.palette.length) : s.palette[i] = s.palAt i := by
  simp [State.palette]

end Sys2Proof.Machine
end

