-- ==== Sys2Proof/Laws/Match.lean ====
section
/-! SUPPORT. The matcher: the squared difference, the palette as a list, and what the best pair of the scan means
(spec/00_scope.md rule R7, spec/41_palette.md rules R110, R116, R118). -/

namespace Sys2Proof.Machine

/-- `sq` on integers (R7). -/
theorem sqDiff_cast (x y : Byte) :
    (sqDiff x y : Int) = ((x.toNat : Int) - y.toNat) * ((x.toNat : Int) - y.toNat) := by
  simp only [sqDiff]
  exact Int.toNat_of_nonneg (mul_self_nonneg _)

/-- A squared channel difference is at most 65025 (R7). -/
theorem sqDiff_le (x y : Byte) : sqDiff x y ≤ 65025 := by
  have hx := x.isLt
  have hy := y.isLt
  have : (sqDiff x y : Int) ≤ 65025 := by
    rw [sqDiff_cast]
    have h1 : ((x.toNat : Int) - y.toNat) ≤ 255 := by omega
    have h2 : -255 ≤ ((x.toNat : Int) - y.toNat) := by omega
    nlinarith
  exact_mod_cast this

/-- A statement about every entry of the palette, by index (R110). -/
theorem State.forall_palette (s : State) (Q : Word → Prop) :
    (∀ p ∈ s.palette, Q p) ↔ ∀ i, i < s.plen.toNat → Q (s.palAt i) := by
  constructor
  · intro h i hi; exact h _ ((s.mem_palette _).2 ⟨i, hi, rfl⟩)
  · intro h p hp; obtain ⟨i, hi, rfl⟩ := (s.mem_palette _).1 hp; exact h i hi

/-- A statement about some entry of the palette, by index (R110). -/
theorem State.exists_palette (s : State) (Q : Word → Prop) :
    (∃ p ∈ s.palette, Q p) ↔ ∃ i, i < s.plen.toNat ∧ Q (s.palAt i) := by
  constructor
  · rintro ⟨p, hp, hq⟩; obtain ⟨i, hi, rfl⟩ := (s.mem_palette _).1 hp; exact ⟨i, hi, hq⟩
  · rintro ⟨i, hi, hq⟩; exact ⟨_, (s.mem_palette _).2 ⟨i, hi, rfl⟩, hq⟩

/-- The entry at an index of the palette list (R110). -/
theorem State.palette_getElem?_iff (s : State) (i : Nat) (p : Word) :
    s.palette[i]? = some p ↔ i < s.plen.toNat ∧ s.palAt i = p := by
  rw [List.getElem?_eq_some_iff]
  constructor
  · rintro ⟨h, e⟩; rw [State.palette_getElem] at e; exact ⟨by rwa [s.palette_length] at h, e⟩
  · rintro ⟨h, e⟩; exact ⟨by rwa [s.palette_length], by rw [State.palette_getElem]; exact e⟩

/-- What the best pair means once the entries `Q` (indexes from 0) have been scanned: with none, every entry was skipped;
with (i, d), entry `i` is the first of those not skipped at the smallest distance `d` (R118). -/
def BestOf (src : Word) (ob rgb : Bool) (Q : List Word) : Option (Nat × Nat) → Prop
  | none => ∀ p ∈ Q, skipped src p ob = true
  | some (i, d) => ∃ p, Q[i]? = some p ∧ skipped src p ob = false ∧ d = dist rgb src p ∧
      ∀ (j : Nat) (q : Word), Q[j]? = some q → skipped src q ob = false →
        d ≤ dist rgb src q ∧ (j < i → d < dist rgb src q)

/-- One round of the scan keeps the meaning of the best pair (R118). -/
theorem bestOf_scanStep (src : Word) (ob rgb : Bool) (Q : List Word) (p : Word) (b : Option (Nat × Nat))
    (h : BestOf src ob rgb Q b) : BestOf src ob rgb (Q ++ [p]) (scanStep src ob rgb Q.length p b) := by
  have get : ∀ (j : Nat) (q : Word), (Q ++ [p])[j]? = some q → Q[j]? = some q ∨ (j = Q.length ∧ q = p) := by
    intro j q hj
    rcases Nat.lt_trichotomy j Q.length with hlt | heq | hgt
    · left; rwa [List.getElem?_append_left hlt] at hj
    · right; subst heq; simp at hj; exact ⟨rfl, hj.symm⟩
    · rw [List.getElem?_eq_none (by simp; omega)] at hj; cases hj
  have old : ∀ {j : Nat} {q : Word}, Q[j]? = some q → j < Q.length := by
    intro j q hj; exact (List.getElem?_eq_some_iff.1 hj).1
  unfold scanStep
  cases hs : skipped src p ob
  · simp only [Bool.false_eq_true, if_false]
    rcases b with _ | ⟨i, d⟩
    · simp only [improves, if_true, BestOf] at h ⊢
      refine ⟨p, by simp, hs, rfl, ?_⟩
      intro j q hj hq
      rcases get j q hj with h1 | ⟨rfl, rfl⟩
      · have := h q (List.mem_of_getElem? h1); rw [this] at hq; cases hq
      · exact ⟨le_rfl, fun hh => absurd hh (lt_irrefl _)⟩
    · obtain ⟨r, hr, hrs, hd, hall⟩ := h
      by_cases hlt : dist rgb src p < d
      · simp only [improves, hlt, decide_true, if_true]
        refine ⟨p, by simp, hs, rfl, ?_⟩
        intro j q hj hq
        rcases get j q hj with h1 | ⟨rfl, rfl⟩
        · have := (hall j q h1 hq).1; exact ⟨by omega, fun _ => by omega⟩
        · exact ⟨le_rfl, fun hh => absurd hh (lt_irrefl _)⟩
      · simp only [improves, hlt, decide_false, Bool.false_eq_true, if_false]
        refine ⟨r, by rw [List.getElem?_append_left (old hr)]; exact hr, hrs, hd, ?_⟩
        intro j q hj hq
        rcases get j q hj with h1 | ⟨rfl, rfl⟩
        · exact hall j q h1 hq
        · have := old hr; exact ⟨by omega, fun hh => by omega⟩
  · simp only [if_true]
    rcases b with _ | ⟨i, d⟩
    · intro q hq
      rcases List.mem_append.1 hq with h1 | h1
      · exact h q h1
      · simp at h1; rw [h1]; exact hs
    · obtain ⟨r, hr, hrs, hd, hall⟩ := h
      refine ⟨r, by rw [List.getElem?_append_left (old hr)]; exact hr, hrs, hd, ?_⟩
      intro j q hj hq
      rcases get j q hj with h1 | ⟨rfl, rfl⟩
      · exact hall j q h1 hq
      · rw [hs] at hq; cases hq

/-- The whole scan keeps the meaning of the best pair (R118). -/
theorem bestOf_scan (src : Word) (ob rgb : Bool) (R : List Word) : ∀ (Q : List Word) (b : Option (Nat × Nat)),
    BestOf src ob rgb Q b → BestOf src ob rgb (Q ++ R) (scan src ob rgb Q.length R b) := by
  induction R with
  | nil => intro Q b h; simpa [scan] using h
  | cons p R ih =>
    intro Q b h
    have := ih (Q ++ [p]) _ (bestOf_scanStep src ob rgb Q p b h)
    simpa [scan] using this

end Sys2Proof.Machine
end

