-- ==== Sys2Proof/Laws/PerInstr.lean ====
section
/-! SUPPORT. Family EncodeOp: an encoded command holds its opcode in bits 3:0 and zero in bits 7:4 (spec/30_encoding.md
rules R61 to R64, R66). -/

namespace Sys2Proof.Laws.EncodeOp

/-- The encoded word names the command in its low nibble and leaves bits 7:4 zero. -/
def Statement (i : Instr) : Prop := opField (Sys2Proof.encode i) = i.op ∧ lowReserved (Sys2Proof.encode i) = 0

/-- A nibble below a zero nibble is the opcode field of the word. -/
theorem opField_append (x : BitVec 24) (op : BitVec 4) : opField (x ++ 0#4 ++ op) = op :=
  (Machine.extractLsb'_append_low _ _ _ _ (by omega)).trans (Machine.extractLsb'_zero_self op)

/-- A zero nibble above the opcode is the reserved nibble of the word. -/
theorem lowReserved_append (x : BitVec 24) (op : BitVec 4) : lowReserved (x ++ 0#4 ++ op) = 0 :=
  (Machine.extractLsb'_append_high _ _ _ _ (by omega)).trans
    ((Machine.extractLsb'_append_low _ _ _ _ (by omega)).trans (Machine.extractLsb'_zero_self 0#4))

theorem nop : Statement .nop := ⟨rfl, rfl⟩

theorem rescale (value : Byte) (fromW toW : Width) : Statement (.rescale value fromW toW) :=
  ⟨opField_append (0#8 ++ value ++ toW ++ fromW) 1, lowReserved_append (0#8 ++ value ++ toW ++ fromW) 1⟩

/-- The format W word (R63) around any opcode. -/
theorem encodeW_op (w : Widths) (op : BitVec 4) : opField (encodeW w op) = op ∧ lowReserved (encodeW w op) = 0 :=
  ⟨opField_append (0#8 ++ w.a ++ w.r ++ w.g ++ w.b) op, lowReserved_append (0#8 ++ w.a ++ w.r ++ w.g ++ w.b) op⟩

theorem pack (w : Widths) : Statement (.pack w) := encodeW_op w 2

theorem unpack (w : Widths) : Statement (.unpack w) := encodeW_op w 3

theorem encode (w : Widths) : Statement (.encode w) := encodeW_op w 4

theorem decode (w : Widths) : Statement (.decode w) := encodeW_op w 5

theorem luma : Statement .luma := ⟨rfl, rfl⟩

theorem setPlen (n : BitVec 9) : Statement (.setPlen n) :=
  ⟨opField_append (0#15 ++ n) 7, lowReserved_append (0#15 ++ n) 7⟩

theorem classify : Statement .classify := ⟨rfl, rfl⟩

theorem matchColor : Statement .matchColor := ⟨rfl, rfl⟩

theorem lookup : Statement .lookup := ⟨rfl, rfl⟩

theorem clrErr : Statement .clrErr := ⟨rfl, rfl⟩

end Sys2Proof.Laws.EncodeOp
end

