-- ==== Sys2Proof/Laws/Rescale.lean ====
section
/-! SUPPORT. The arithmetic of `rescale` (spec/40_channel_conversion.md rules R80, R81, R94) and of the fields of a packed
container (R84), on natural numbers. -/

namespace Sys2Proof.Machine

theorem ones_le {n : Nat} (h : n ≤ 8) : ones n ≤ 255 := by
  have : 2 ^ n ≤ 2 ^ 8 := Nat.pow_le_pow_right (by omega) h
  simp only [ones]; omega

/-- The rounded quotient stays within the target width (R81 (c)). -/
theorem scale_le {v f t : Nat} (hf : 0 < f) (h : v ≤ ones f) : scale v f t ≤ ones t := by
  have hF := ones_pos hf
  unfold scale
  have : (v * ones t + ones f / 2) / ones f ≤ (ones f * ones t + ones f / 2) / ones f :=
    Nat.div_le_div_right (by have := Nat.mul_le_mul_right (ones t) h; omega)
  rw [Nat.mul_add_div hF, Nat.div_eq_of_lt (show ones f / 2 < ones f by omega)] at this
  simpa using this

/-- Full scale maps to full scale (R81 (c)). -/
theorem scale_ones {f t : Nat} (hf : 0 < f) : scale (ones f) f t = ones t := by
  have hF := ones_pos hf
  rw [scale, Nat.mul_add_div hF, Nat.div_eq_of_lt (show ones f / 2 < ones f by omega)]; simp

/-- Zero maps to zero (R81 (c)). -/
theorem scale_zero {f t : Nat} (hf : 0 < f) : scale 0 f t = 0 := by
  have hF := ones_pos hf
  rw [scale]; simp; right; omega

/-- Equal widths: the value itself (R81 (d)). -/
theorem scale_self {v n : Nat} (hn : 0 < n) : scale v n n = v := by
  have hF := ones_pos hn
  rw [scale, Nat.mul_comm, Nat.mul_add_div hF, Nat.div_eq_of_lt (show ones n / 2 < ones n by omega)]; simp

/-- Monotone in the value (R81 (f)). -/
theorem scale_mono {u v f t : Nat} (h : u ≤ v) : scale u f t ≤ scale v f t :=
  Nat.div_le_div_right (by have := Nat.mul_le_mul_right (ones t) h; omega)

/-- An absent channel gives 255 (R80). -/
theorem rescale_absent {v : Byte} {f t : Width} (h : f = 0 ∨ t = 0) : rescale v f t = 255 := by
  unfold rescale; rw [if_pos h]

/-- Disjoint fields: a bitwise or of shifted fields is their sum (R84, R94). -/
theorem fields_or_eq_sum {a r g b wr wg wb : Nat} (hr : r < 2 ^ wr) (hg : g < 2 ^ wg) (hb : b < 2 ^ wb) :
    (a <<< (wr + wg + wb)) ||| (r <<< (wg + wb)) ||| (g <<< wb) ||| b =
      a * 2 ^ (wr + wg + wb) + r * 2 ^ (wg + wb) + g * 2 ^ wb + b := by
  have h1 : g * 2 ^ wb + b < 2 ^ (wg + wb) := by
    rw [Nat.pow_add]
    have := Nat.mul_le_mul_right (2 ^ wb) (show g + 1 ≤ 2 ^ wg by omega)
    rw [Nat.add_mul] at this; omega
  have h2 : r * 2 ^ (wg + wb) + (g * 2 ^ wb + b) < 2 ^ (wr + wg + wb) := by
    rw [Nat.add_assoc wr, Nat.pow_add 2 wr]
    have := Nat.mul_le_mul_right (2 ^ (wg + wb)) (show r + 1 ≤ 2 ^ wr by omega)
    rw [Nat.add_mul] at this; omega
  have or_add : ∀ x y k : Nat, y < 2 ^ k → (x <<< k) ||| y = x * 2 ^ k + y := by
    intro x y k h; rw [← Nat.shiftLeft_add_eq_or_of_lt h, Nat.shiftLeft_eq]
  rw [Nat.or_assoc, Nat.or_assoc, or_add g b wb hb, or_add r _ _ h1, or_add a _ _ h2]
  omega

end Sys2Proof.Machine
end

