-- ==== Sys2Proof/Tests/Slice0.lean ====
section
/-! SUPPORT. Tests on values from the spec's own words and vectors (each names its source), and a witness of the hypotheses of
every statement that has some. -/

namespace Sys2Proof.Tests

open Sys2Proof Sys2Proof.Machine Sys2Proof.Spec

/-! ## Helpers -/

/-- The next state of an outcome; no outcome of this machine is another (log 5). -/
def after : Host.Outcome State Fault Refusal → State
  | .next s => s
  | .fault _ => State.reset
  | .refused _ => State.reset

/-- A state with this COLOR and RAW, else as after reset. -/
def withData (color raw : Word) : State := { State.reset with color := color, raw := raw }

/-- A state with these palette entries written, PLEN their number, and this COLOR. -/
def withPalette (entries : List Word) (color : Word) : State :=
  { State.reset with
    color := color
    plen := BitVec.ofNat 9 entries.length
    pal := (List.range entries.length).zip entries }

/-- The two-entry opaque palette of the example of R119. -/
def opaquePalette : State := withPalette [0xFF000000, 0xFFFFFFFF] 0x80C0C0C0

/-- Palette B of example E8 with its opaque source: every entry is skipped. -/
def clearPalette : State := withPalette [0x00102030, 0x00FFFFFF, 0x00000000] 0xC8102030

/-- A reset state with these host moves to come. -/
def withScript (ms : List HostMove) : State := { State.reset with script := ms }

/-! ## WellFormed refuses each ill-formed term (R62 to R64) -/

theorem test_wellFormed_refuses_rescale_from : (Instr.rescale 0 9 8).wellFormed = false := by decide
theorem test_wellFormed_refuses_rescale_to : (Instr.rescale 0 8 9).wellFormed = false := by decide
theorem test_wellFormed_refuses_pack_widths : (Instr.pack ⟨9, 8, 8, 8⟩).wellFormed = false ∧
    (Instr.pack ⟨8, 9, 8, 8⟩).wellFormed = false ∧ (Instr.pack ⟨8, 8, 9, 8⟩).wellFormed = false ∧
    (Instr.pack ⟨8, 8, 8, 9⟩).wellFormed = false := by decide
theorem test_wellFormed_refuses_unpack_widths : (Instr.unpack ⟨9, 8, 8, 8⟩).wellFormed = false ∧
    (Instr.unpack ⟨8, 9, 8, 8⟩).wellFormed = false ∧ (Instr.unpack ⟨8, 8, 9, 8⟩).wellFormed = false ∧
    (Instr.unpack ⟨8, 8, 8, 9⟩).wellFormed = false := by decide
theorem test_wellFormed_refuses_encode_widths : (Instr.encode ⟨9, 8, 8, 8⟩).wellFormed = false ∧
    (Instr.encode ⟨8, 9, 8, 8⟩).wellFormed = false ∧ (Instr.encode ⟨8, 8, 9, 8⟩).wellFormed = false ∧
    (Instr.encode ⟨8, 8, 8, 9⟩).wellFormed = false := by decide
theorem test_wellFormed_refuses_decode_widths : (Instr.decode ⟨9, 8, 8, 8⟩).wellFormed = false ∧
    (Instr.decode ⟨8, 9, 8, 8⟩).wellFormed = false ∧ (Instr.decode ⟨8, 8, 9, 8⟩).wellFormed = false ∧
    (Instr.decode ⟨8, 8, 8, 9⟩).wellFormed = false := by decide
theorem test_wellFormed_refuses_setPlen : (Instr.setPlen 257).wellFormed = false := by decide
theorem test_wellFormed_admits_the_bounds : (Instr.rescale 255 8 8).wellFormed = true ∧
    (Instr.decode ⟨8, 8, 8, 8⟩).wellFormed = true ∧ (Instr.setPlen 256).wellFormed = true := by decide

/-! ## Decoding, words written out bit by bit from R61 to R64 -/

/-- R61, R130: zero 31:8, zero 7:4, op 0. -/
theorem test_decode_nop : decode 0b00000000_00000000_00000000_0000_0000 = some .nop := by decide
/-- R62: zero, value 17, to 8, from 5, zero, op 1; the word 0x00118501 of vectors 2.3. -/
theorem test_decode_rescale : decode 0b00000000_00010001_1000_0101_0000_0001 = some (.rescale 17 5 8) := by decide
/-- R63: zero, wa 0, wr 5, wg 6, wb 5, zero, op 2; the word 0x00056502 of R85. -/
theorem test_decode_pack : decode 0b00000000_0000_0101_0110_0101_0000_0010 = some (.pack ⟨0, 5, 6, 5⟩) := by decide
/-- R63: wa 1, wr 2, wg 3, wb 4, op 3. -/
theorem test_decode_unpack : decode 0b00000000_0001_0010_0011_0100_0000_0011 = some (.unpack ⟨1, 2, 3, 4⟩) := by decide
/-- R63: wa 1, wr 5, wg 5, wb 5, op 4; the word 0x00155504 of R71. -/
theorem test_decode_encode : decode 0b00000000_0001_0101_0101_0101_0000_0100 = some (.encode ⟨1, 5, 5, 5⟩) := by decide
/-- R63: wa 8, wr 0, wg 0, wb 0, op 5; the word 0x00800005 of E3. -/
theorem test_decode_decode : decode 0b00000000_1000_0000_0000_0000_0000_0101 = some (.decode ⟨8, 0, 0, 0⟩) := by decide
/-- R96: 0x00000006. -/
theorem test_decode_luma : decode 0b00000000_00000000_00000000_0000_0110 = some .luma := by decide
/-- R64: zero 31:17, n 256 in 16:8, zero, op 7; the word 0x00010007 of R111. -/
theorem test_decode_setPlen : decode 0b000000000000000_100000000_0000_0111 = some (.setPlen 256) := by decide
/-- R114: 0x00000008. -/
theorem test_decode_classify : decode 0b00000000_00000000_00000000_0000_1000 = some .classify := by decide
/-- R119: 0x00000009. -/
theorem test_decode_match : decode 0b00000000_00000000_00000000_0000_1001 = some .matchColor := by decide
/-- R121: 0x0000000A. -/
theorem test_decode_lookup : decode 0b00000000_00000000_00000000_0000_1010 = some .lookup := by decide
/-- R131: 0x0000000B. -/
theorem test_decode_clrErr : decode 0b00000000_00000000_00000000_0000_1011 = some .clrErr := by decide
/-- R68, one word for each kind of illegal encoding. -/
theorem test_decode_refuses_illegal_words : decode 0x00000010 = none ∧ decode 0x0000000C = none ∧
    decode 0x0000000F = none ∧ decode 0x00000100 = none ∧ decode 0x80000006 = none ∧ decode 0x01118501 = none ∧
    decode 0x01056502 = none ∧ decode 0x00118901 = none ∧ decode 0x00119501 = none ∧ decode 0x00956503 = none ∧
    decode 0x00096504 = none ∧ decode 0x00059505 = none ∧ decode 0x00056902 = none ∧ decode 0x00020007 = none ∧
    decode 0x00010107 = none ∧ decode 0xFFFFFFFF = none := by decide
/-- R70: the assembler's words, and the host's numbering of a table word. -/
theorem test_encode_words : encode (.rescale 200 5 8) = 0x00C88501 ∧ encode (.unpack ⟨0, 5, 6, 5⟩) = 0x00056503 ∧
    encode (.setPlen 4) = 0x00000407 ∧ decodeTableWord 32 0x00C88501 = some (.rescale 200 5 8) ∧
    decodeTableWord 8 0xFF09 = some .matchColor := by decide

/-! ## One command each, on values of the spec -/

/-- R82: 17 through 5 to 8 bits. -/
theorem test_rescale_rounds : (after (exec (.rescale 17 5 8) State.reset)).val = 0x8C := by decide
/-- R83: the operand 200 is masked to 5 bits. -/
theorem test_rescale_masks_its_operand : (after (exec (.rescale 200 5 8) State.reset)).val = 0x42 := by decide
/-- R85: the example. -/
theorem test_pack_example : (after (exec (.pack ⟨0, 5, 6, 5⟩) (withData 0xFF336699 0))).raw = 0x00009CD9 := by decide
/-- R92 (c): widths (8,8,8,8) copy COLOR. -/
theorem test_pack_full_width : (after (exec (.pack ⟨8, 8, 8, 8⟩) (withData 0xAABBCCDD 0))).raw = 0xAABBCCDD := by decide
/-- R88: the example; bits above the widths' sum are ignored. -/
theorem test_unpack_example : (after (exec (.unpack ⟨0, 5, 6, 5⟩) (withData 0 0xFFFFABCD))).color = 0x00151E0D := by decide
/-- P4: native widths of (4,4,4,4). -/
theorem test_unpack_4444 : (after (exec (.unpack ⟨4, 4, 4, 4⟩) (withData 0 0x0000F0A5))).color = 0x0F000A05 := by decide
/-- R89: the example. -/
theorem test_encode_example : (after (exec (.encode ⟨0, 5, 6, 5⟩) (withData 0xFF336699 0))).raw = 0x00003333 := by decide
/-- P6: the alpha bit of (1,5,5,5). -/
theorem test_encode_1555 : (after (exec (.encode ⟨1, 5, 5, 5⟩) (withData 0x8012ABFE 0))).raw = 0x00008ABF := by decide
/-- R90: the example, alpha absent. -/
theorem test_decode_565 : (after (exec (.decode ⟨0, 5, 6, 5⟩) (withData 0 0x00003333))).color = 0xFF31659C := by decide
/-- E3: alpha-only, colour channels absent. -/
theorem test_decode_alpha_only : (after (exec (.decode ⟨8, 0, 0, 0⟩) (withData 0 0x5A))).color = 0x5AFFFFFF := by decide
/-- R96: the gray example. -/
theorem test_luma_gray : (after (exec .luma (withData 0x80777777 0))).val = 0x77 := by decide
/-- R97: a color that is not gray gives LUMA_WEIGHTED of red, green, blue in that order. -/
theorem test_luma_weighted :
    (after (exec .luma (withData 0xFF010203 0))).val = Config.lumaWeighted 0x01 0x02 0x03 := rfl
/-- R111: the length, and PCLASS cleared. -/
theorem test_setPlen_clears_class :
    (after (exec (.setPlen 256) { State.reset with pclass := ⟨true, false, true⟩ })).plen = 256 ∧
    (after (exec (.setPlen 256) { State.reset with pclass := ⟨true, false, true⟩ })).pclass.word = 0 := by decide
/-- P3: SETPLEN 257 is refused and PLEN keeps its value. -/
theorem test_setPlen_257_raises : (after (execWord 0x00010107 opaquePalette)).plen = 2 ∧
    (after (execWord 0x00010107 opaquePalette)).status.word = 0x11 := by decide
/-- R114: the example, alphas 0 and 255: the demotion applies. -/
theorem test_classify_demotes :
    (after (exec .classify (withPalette [0x00112233, 0xFF445566] 0))).pclass.word = 0x00000005 := by decide
/-- E8, palette B: only alpha 0. -/
theorem test_classify_transparent : (after (exec .classify clearPalette)).pclass.word = 0x00000006 := by decide
/-- R119: the example. -/
theorem test_match_example : (after (exec .matchColor opaquePalette)).raw = 0x00000001 := by decide
/-- E8, palette A: a mixed palette, distances 0, 0, 149699, 3584, and the first minimum is the alpha 0 entry. -/
theorem test_match_mixed_first_minimum :
    (after (exec .matchColor (withPalette [0x00102030, 0xFF102030, 0xFFFFFFFF, 0x00000000] 0xC8102030))).raw = 0 ∧
    (after (exec .matchColor clearPalette)).status.last = .failed .noCandidate := by decide
/-- R121: the example, PAL[3] by RAW[7:0] with PLEN 0. -/
theorem test_lookup_example :
    (after (exec .lookup { withData 0 0x12345603 with pal := [(3, 0x80112233)] })).color = 0x80112233 := by decide
/-- R130: the example. -/
theorem test_nop_keeps_first :
    (after (exec .nop { State.reset with status := ⟨.failed .emptyPalette, .failed .emptyPalette⟩ })).status.word =
      0x00000020 := by decide
/-- R131: the example. -/
theorem test_clrErr_clears_both :
    (after (exec .clrErr { State.reset with status := ⟨.failed .emptyPalette, .failed .emptyPalette⟩ })).status.word =
      0x00000000 := by decide

/-! ## The port and the step -/

/-- P5: the writable registers take the word, the others ignore it. -/
theorem test_write_read_only_registers : (after (writeWord 7 0 State.reset)).readWord 7 = 0x4D430001 ∧
    (after (writeWord 4 0xFFFFFFFF State.reset)).readWord 4 = 0 ∧ (after (writeWord 5 7 State.reset)).readWord 5 = 0 ∧
    (after (writeWord 6 7 State.reset)).readWord 6 = 0 ∧ (after (writeWord 1 0xFF State.reset)).readWord 1 = 0 ∧
    (after (writeWord 2 0xAABBCCDD State.reset)).readWord 2 = 0xAABBCCDD := by decide
/-- P5: a palette write above PLEN takes the word and clears PCLASS. -/
theorem test_write_palette :
    (after (writeWord 0x1FF 0x12345678 { opaquePalette with pclass := ⟨true, false, true⟩ })).readWord 0x1FF = 0x12345678 ∧
    (after (writeWord 0x1FF 0x12345678 { opaquePalette with pclass := ⟨true, false, true⟩ })).readWord 6 = 0 := by decide
/-- P3: MATCH with PLEN 0 leaves LAST and FIRST EmptyPalette; then a width of 9 leaves FIRST as it is. -/
theorem test_errors_last_and_first : (after (execWord 9 State.reset)).readWord 1 = 0x22 ∧
    (after (execWord 0x00096504 (after (execWord 9 State.reset)))).readWord 1 = 0x21 := by decide
/-- R160: reset clears PLEN and forgets every written entry. -/
theorem test_reset_move : (after (step { opaquePalette with script := [.reset] })).plen = 0 ∧
    (after (step { opaquePalette with script := [.reset] })).pal = [] := by decide
/-- R42, R47: a step reads ID. -/
theorem test_step_reads : (after (step (withScript [.read 7]))).reads = [0x4D430001] := by decide
/-- R21, R26: the move as a parameter; ID is read and the PCU's state stays. -/
theorem test_stepUnder_reads_ID : stepUnder (.read 7) State.reset.toPcu = .next (State.reset.toPcu, [0x4D430001]) := rfl
/-- R82 by way of the host's hook: the very next step runs the word. -/
theorem test_step_withFetchWord : (after (step (State.reset.withFetchWord 32 0x00118501))).val = 0x8C := by decide
/-- R49: bytes 0 and 1 of 0x8ABF are 0xBF and 0x8A (P6). -/
theorem test_rawBytes_little_endian : rawBytes 0x00008ABF 2 = [0xBF, 0x8A] ∧ rawOfBytes [0xBF, 0x8A] = 0x8ABF := by decide
/-- R124, R168: the transfers of one color, one packed pixel and one index byte (words of P2, P6). -/
theorem test_passes_expand :
    (matchPass [0xFF336699]).map assemble =
      [some (.write 2 0xFF336699), some (.write 0 0x00000009), some (.read 3)] ∧
    (encodePass ⟨1, 5, 5, 5⟩ [0x8012ABFE]).map assemble =
      [some (.write 2 0x8012ABFE), some (.write 0 0x00155504), some (.read 3)] ∧
    (decodePass ⟨1, 5, 5, 5⟩ [0x8ABF]).map assemble =
      [some (.write 3 0x8ABF), some (.write 0 0x00155505), some (.read 2)] ∧
    (lookupPass [3]).map assemble = [some (.write 3 3), some (.write 0 0x0000000A), some (.read 2)] := by decide

/-! ## Witnesses: for each statement with hypotheses, values that meet them together, at the bounds of each clause -/

theorem witness_DecodeInvertsEncode : (Instr.rescale 255 8 8).wellFormed = true ∧
    (Instr.encode ⟨8, 8, 8, 8⟩).wellFormed = true ∧ (Instr.setPlen 256).wellFormed = true ∧
    (Instr.setPlen 0).wellFormed = true := by decide

theorem witness_DecodedCommandReencodesToItsWord : decode 0x00010007 = some (.setPlen 256) ∧
    decode 0x00888805 = some (.decode ⟨8, 8, 8, 8⟩) := by decide

/-- One word for each kind of R68, at the bound where there is one. -/
theorem witness_IllegalWordsAreTheListedOnesAndRaise : Illegal 0x00000010 ∧ Illegal 0x0000000C ∧ Illegal 0x00000100 ∧
    Illegal 0x01000002 ∧ Illegal 0x00008901 ∧ Illegal 0x00009801 ∧ Illegal 0x00900005 ∧ Illegal 0x00010107 ∧
    Illegal 0x00020007 ∧ ¬Illegal 0x00010007 ∧ ¬Illegal 0x00888805 :=
  ⟨by decide, by decide, by decide, by decide, by decide, by decide, by decide, by decide, by decide, by decide, by decide⟩

theorem witness_AssembledWordsFollowTheTable : (Instr.setPlen 256).wellFormed = true ∧
    (Instr.setPlen 257).wellFormed = false ∧ Legal ⟨8, 8, 8, 8⟩ ∧ ¬Legal ⟨0, 9, 0, 0⟩ ∧
    (RegName.cmd, (0 : Addr)) ∈ [(RegName.cmd, (0 : Addr)), (.id, 7)] := by decide

theorem witness_StepRunsDecodedCommand :
    ((withScript [.write 0 0x00010007, .read 5]).script = [.write 0 0x00010007, .read 5] ∧
      decode 0x00010007 = some (.setPlen 256)) ∧
    ((withScript [.write 0 0x0000000C]).script = [.write 0 0x0000000C] ∧ decode 0x0000000C = none) ∧
    decodeTableWord 32 0x00010007 = some (.setPlen 256) := by decide

theorem witness_ResetMoveGivesTheResetState : (withScript [.reset, .read 1]).script = [.reset, .read 1] := rfl

theorem witness_ReadsHaveNoSideEffect : (withScript [.read 0x1FF]).script = [.read 0x1FF] := rfl

theorem witness_ReservedAddressesReadZeroAndIgnoreWrites : ((8 : Addr) ≤ 8 ∧ (8 : Addr) ≤ 0xFF) ∧
    ((8 : Addr) ≤ 0xFF ∧ (0xFF : Addr) ≤ 0xFF) := by decide

theorem witness_WriteEffectsAreTheListedOnes : decode 0x00000009 = some .matchColor ∧ decode 0x0000000C = none ∧
    (0x100 : Addr) ≤ 0x100 ∧ (0x100 : Addr) ≤ 0x1FF ∧ (8 : Addr) ≤ 8 ∧ (0xFF : Addr) ≤ 0xFF := by decide

theorem witness_AddressMapReadsTheState : ((8 : Addr) ≤ 8 ∧ (8 : Addr) ≤ 0xFF ∧ (0xFF : Addr) ≤ 0xFF) ∧
    (0x100 : Addr) ≤ 0x100 ∧ (0x100 : Addr) ≤ 0x1FF ∧
    (0x100 : Addr).toNat - 0x100 = 0 ∧ (0x1FF : Addr).toNat - 0x100 = 255 := by decide

theorem witness_PixelBytesAreLittleEndian : 4 ≤ 4 ∧ 3 < 4 ∧ 0 < 1 ∧ rawByte 0x80FF8ABF 3 = 0x80 := by decide

theorem witness_IdleStepChangesNothing : State.reset.script = [] := rfl

/-- One failing word for each error (R141). -/
theorem witness_FailedCommandChangesOnlyStatus :
    (∃ t, execWord 0x0000000C State.reset = .next t ∧ t.status.last = .failed .illegalCommand) ∧
    (∃ t, execWord 0x00000008 State.reset = .next t ∧ t.status.last = .failed .emptyPalette) ∧
    ∃ t, execWord 0x00000009 clearPalette = .next t ∧ t.status.last = .failed .noCandidate :=
  ⟨⟨_, execWord_illegal _ (by decide), rfl⟩,
    ⟨_, (execWord_legal _ (i := .classify) (by decide)).trans (exec_classify_empty rfl), rfl⟩,
    ⟨_, (execWord_legal _ (i := .matchColor) (by decide)).trans (exec_match_none (by decide) (by decide)), rfl⟩⟩

theorem witness_ErrorsAriseExactlyAsListed :
    (Illegal 0x0000000C ∧ ∃ t, execWord 0x0000000C State.reset = .next t) ∧
    (decode 0x00000008 = some .classify ∧ State.reset.plen = 0 ∧ ∃ t, execWord 0x00000008 State.reset = .next t) ∧
    (decode 0x00000009 = some .matchColor ∧ clearPalette.plen ≠ 0 ∧ (∀ i, i < 3 → ¬Candidate clearPalette i) ∧
      ∃ t, execWord 0x00000009 clearPalette = .next t) :=
  ⟨⟨by decide, _, execWord_illegal _ (by decide)⟩,
    ⟨by decide, rfl, _, (execWord_legal _ (i := .classify) (by decide)).trans (exec_classify_empty rfl)⟩,
    ⟨by decide, by decide, by decide, _,
      (execWord_legal _ (i := .matchColor) (by decide)).trans (exec_match_none (by decide) (by decide))⟩⟩

theorem witness_CompletedCommandKeepsFirst :
    (∃ t, exec .clrErr State.reset = .next t ∧ t.status.last = .ok) ∧
    ∃ t, exec .nop State.reset = .next t ∧ t.status.last = .ok := ⟨⟨_, rfl, rfl⟩, ⟨_, rfl, rfl⟩⟩

/-- A failing MATCH, and the same one again with RAW, VAL, STATUS and PCLASS changed. -/
theorem witness_ReissuedFailureChangesNothing :
    (∃ t, exec .matchColor clearPalette = .next t ∧ t.status.last ≠ .ok) ∧
    ∃ s₂ t₁ t₂, clearPalette.raw ≠ s₂.raw ∧ clearPalette.color = s₂.color ∧ clearPalette.plen = s₂.plen ∧
      (∀ j, j < clearPalette.plen.toNat → clearPalette.palAt j = s₂.palAt j) ∧
      exec .matchColor clearPalette = .next t₁ ∧ exec .matchColor s₂ = .next t₂ ∧
      t₁.status.last = .failed .noCandidate :=
  have h := exec_match_none (s := clearPalette) (by decide) (by decide)
  ⟨⟨_, h, by decide⟩,
    { clearPalette with raw := 7, val := 9, pclass := ⟨false, true, true⟩, status := ⟨.ok, .failed .illegalCommand⟩ },
    _, _, by decide, rfl, rfl, fun _ _ => rfl, h, exec_match_none (by decide) (by decide), rfl⟩

theorem witness_CommandResultDependsOnOperandsOnly : ∃ s₁ s₂ t₁ t₂ : State, s₁.status ≠ s₂.status ∧
    s₁.color = s₂.color ∧ s₁.raw = s₂.raw ∧ s₁.val = s₂.val ∧ s₁.plen = s₂.plen ∧ (∀ j, s₁.palAt j = s₂.palAt j) ∧
    exec .classify s₁ = .next t₁ ∧ exec .classify s₂ = .next t₂ ∧ t₁.status.last = .ok :=
  ⟨opaquePalette, { opaquePalette with status := ⟨.failed .noCandidate, .failed .noCandidate⟩ }, _, _, by decide, rfl, rfl,
    rfl, rfl, fun _ => rfl, exec_classify_some (by decide), exec_classify_some (by decide), rfl⟩

/-- The two states differ in RAW, PCLASS and the palette entry at index PLEN. -/
theorem witness_MatchDependsOnColorAndPaletteOnly : ∃ s₁ s₂ t₁ t₂ : State, s₁.raw ≠ s₂.raw ∧ s₁.pal ≠ s₂.pal ∧
    s₁.color = s₂.color ∧ s₁.plen = s₂.plen ∧ (∀ j, j < s₁.plen.toNat → s₁.palAt j = s₂.palAt j) ∧
    exec .matchColor s₁ = .next t₁ ∧ exec .matchColor s₂ = .next t₂ ∧ t₁.status.last = .ok :=
  have agree : ∀ j, j < 2 → opaquePalette.palAt j = ({ opaquePalette with
      raw := 5, pal := [(0, 0xFF000000), (1, 0xFFFFFFFF), (2, 0)] } : State).palAt j := by
    intro j hj
    match j, hj with
    | 0, _ => rfl
    | 1, _ => rfl
  ⟨opaquePalette, { opaquePalette with raw := 5, pal := [(0, 0xFF000000), (1, 0xFFFFFFFF), (2, 0)] }, _, _, by decide,
    by decide, rfl, rfl, agree, exec_match_some (best := 1) (by decide) (by decide),
    exec_match_some (best := 1) (by decide) (by decide), rfl⟩

theorem witness_RescaleIsTheRoundedQuotient : ((8 : Width) ≤ 8 ∧ (0 : Width) ≤ 8) ∧ ((1 : Width) ≠ 0 ∧ (1 : Width) ≤ 8 ∧
    (1 : Byte).toNat ≤ 2 ^ (1 : Width).toNat - 1) ∧ (255 : Byte).toNat ≤ 2 ^ (8 : Width).toNat - 1 := by decide

theorem witness_RescaleRoundTripRangeAndOrder : ((1 : Width) ≤ 1 ∧ (1 : Width) ≤ 8 ∧
    (1 : Byte).toNat ≤ 2 ^ (1 : Width).toNat - 1) ∧ ((1 : Width) ≤ 8 ∧ (8 : Width) ≤ 8 ∧
    (255 : Byte).toNat ≤ 2 ^ (8 : Width).toNat - 1) ∧ ((254 : Byte) ≤ 255 ∧ (5 : Width) ≤ 8) := by decide

theorem witness_RescaleCommand : ((8 : Width) ≤ 8 ∧ (0 : Width) ≤ 8) ∧ (5 : Width) ≠ 0 ∧ ¬((9 : Width) ≤ 8 ∧ (8 : Width) ≤ 8) ∧
    ((0x01118501 : Word).toNat % 16 = 1 ∧ decode 0x01118501 = none) := by decide

theorem witness_PackConcatenatesTheChannels : Legal ⟨8, 8, 8, 8⟩ := by decide

theorem witness_PackCommand : Legal ⟨8, 8, 8, 8⟩ ∧ Legal ⟨0, 0, 0, 0⟩ ∧ ¬Legal ⟨9, 8, 8, 8⟩ ∧
    ((0x01056502 : Word).toNat % 16 = 2 ∧ decode 0x01056502 = none) := by decide

theorem witness_UnpackExtractsTheFields : Legal ⟨0, 5, 6, 5⟩ ∧
    (0xFFFFABCD : Word).toNat % 2 ^ 16 = (0x0000ABCD : Word).toNat % 2 ^ 16 := by decide

theorem witness_UnpackCommand : Legal ⟨0, 0, 0, 0⟩ ∧ Legal ⟨8, 8, 8, 8⟩ ∧ ¬Legal ⟨8, 9, 8, 8⟩ ∧
    ((0x00000013 : Word).toNat % 16 = 3 ∧ decode 0x00000013 = none) := by decide

theorem witness_PackAndUnpackAreInverse : Legal ⟨0, 5, 6, 5⟩ ∧ 5 ∈ [2, 3, 4, 5] ∧ (0xFFFF : Word).toNat < 2 ^ (0 + 5 + 6 + 5) ∧
    (0 : Byte).toNat ≤ 2 ^ 0 - 1 ∧ (31 : Byte).toNat ≤ 2 ^ 5 - 1 ∧ (63 : Byte).toNat ≤ 2 ^ 6 - 1 := by decide

theorem witness_EncodeCommand : Legal ⟨0, 0, 0, 0⟩ ∧ Legal ⟨8, 8, 8, 8⟩ ∧ ¬Legal ⟨8, 8, 9, 8⟩ ∧
    ((0xFF000004 : Word).toNat % 16 = 4 ∧ decode 0xFF000004 = none) := by decide

theorem witness_DecodeCommand : Legal ⟨0, 0, 0, 0⟩ ∧ Legal ⟨8, 8, 8, 8⟩ ∧ ¬Legal ⟨8, 8, 8, 9⟩ ∧
    ((0x00059505 : Word).toNat % 16 = 5 ∧ decode 0x00059505 = none) := by decide

/-- Two colors that differ only in the channels absent: alpha for (0,5,6,5), red for (8,0,8,8), the three colour channels for
(8,0,0,0), all four for (0,0,0,0); and the alpha-only container. -/
theorem witness_AbsentChannelsDefaultAndAreIgnored :
    (Legal ⟨0, 5, 6, 5⟩ ∧ red 0x00336699 = red 0xFF336699 ∧ green 0x00336699 = green 0xFF336699 ∧
      blue 0x00336699 = blue 0xFF336699 ∧ alpha 0x00336699 ≠ alpha 0xFF336699) ∧
    (Legal ⟨8, 0, 8, 8⟩ ∧ alpha 0xFF006699 = alpha 0xFF336699 ∧ green 0xFF006699 = green 0xFF336699 ∧
      blue 0xFF006699 = blue 0xFF336699 ∧ red 0xFF006699 ≠ red 0xFF336699) ∧
    (Legal ⟨8, 0, 0, 0⟩ ∧ alpha 0xFF000000 = alpha 0xFF336699 ∧ green 0xFF000000 ≠ green 0xFF336699 ∧
      blue 0xFF000000 ≠ blue 0xFF336699) ∧
    Legal ⟨0, 0, 0, 0⟩ ∧ (withData 0 0xFF).raw = 0xFF := by decide

theorem witness_EncodeAndDecodeObeyTheirLaws : Legal ⟨1, 5, 5, 5⟩ ∧ Legal ⟨8, 8, 8, 8⟩ ∧
    (withData 0 0xFFFF).raw.toNat < 2 ^ (1 + 5 + 5 + 5) := by decide

theorem witness_LumaCommand : ((0x77 : Byte).toNat = red (withData 0x80777777 0).color ∧
    (0x77 : Byte).toNat = green (withData 0x80777777 0).color ∧ (0x77 : Byte).toNat = blue (withData 0x80777777 0).color) ∧
    ((0x01 : Byte).toNat = red (withData 0xFF010203 0).color ∧ (0x02 : Byte).toNat = green (withData 0xFF010203 0).color ∧
      (0x03 : Byte).toNat = blue (withData 0xFF010203 0).color ∧ ¬((0x01 : Byte) = 0x02 ∧ (0x02 : Byte) = 0x03)) ∧
    ((0x00000106 : Word).toNat % 16 = 6 ∧ (0x00000106 : Word) ≠ 6) := by decide

theorem witness_SetPlenCommand : (256 : BitVec 9) ≤ 256 ∧ (0 : BitVec 9) ≤ 256 ∧ ¬(257 : BitVec 9) ≤ 256 ∧
    State.reset.plen = 0 ∧ ((0x00010107 : Word).toNat % 16 = 7 ∧ decode 0x00010107 = none) := by decide

/-- A palette for each row of R113's table. -/
theorem witness_ClassificationClosedForm :
    (∀ p ∈ [(0xFF000000 : Word), 0xFFFFFFFF], alpha p = 255) ∧
    ((∀ p ∈ [(0x00112233 : Word), 0xFF445566], alpha p = 0 ∨ alpha p = 255) ∧
      (∃ p ∈ [(0x00112233 : Word), 0xFF445566], alpha p = 0) ∧ ∃ p ∈ [(0x00112233 : Word), 0xFF445566], alpha p = 255) ∧
    (∀ p ∈ [(0x00102030 : Word), 0x00FFFFFF], alpha p = 0) ∧
    ∃ p ∈ [(0xFE000000 : Word), 0x01FFFFFF], alpha p ≠ 0 ∧ alpha p ≠ 255 :=
  ⟨by simp [alpha], by simp [alpha], by simp [alpha], by simp [alpha]⟩

theorem witness_ClassifyCommand : (State.reset.plen = 0 ∧ State.reset.Inv) ∧ opaquePalette.plen ≠ 0 ∧
    ((0x80000008 : Word).toNat % 16 = 8 ∧ (0x80000008 : Word) ≠ 8) :=
  ⟨⟨rfl, rfl, by decide, .inl rfl, fun h => absurd rfl h⟩, by decide, by decide⟩

theorem witness_MatchCommand : (State.reset.plen ≤ 256 ∧ (true = true ↔ Binary State.reset) ∧ State.reset.plen = 0) ∧
    (clearPalette.plen ≤ 256 ∧ (true = true ↔ Binary clearPalette) ∧ clearPalette.plen ≠ 0 ∧
      ∀ i, ¬Candidate clearPalette i) ∧
    (opaquePalette.plen ≤ 256 ∧ (true = true ↔ Binary opaquePalette) ∧ Candidate opaquePalette 1) ∧
    (withPalette [0x80FFFFFF] 0).plen ≤ 256 ∧ (false = true ↔ Binary (withPalette [0x80FFFFFF] 0)) ∧
    Candidate (withPalette [0x80FFFFFF] 0) 0 :=
  have none_left : ∀ i, i < 3 → ¬Candidate clearPalette i := by decide
  ⟨⟨by decide, ⟨fun _ _ h => absurd h (Nat.not_lt_zero _), fun _ => rfl⟩, rfl⟩,
    ⟨by decide, by decide, by decide, fun i h => none_left i h.1 h⟩, ⟨by decide, by decide, by decide⟩, by decide, by decide,
    by decide⟩

theorem witness_NoCandidateExactlyForOpaqueSourceOnTransparentPalette :
    (∃ t, exec .matchColor clearPalette = .next t ∧ clearPalette.plen ≠ 0 ∧ Transparent clearPalette ∧
      128 ≤ alpha clearPalette.color) ∧
    (∃ t, exec .matchColor opaquePalette = .next t ∧ opaquePalette.plen ≠ 0 ∧ Binary opaquePalette ∧
      ¬(Transparent opaquePalette ∧ 128 ≤ alpha opaquePalette.color)) ∧
    ∃ t, exec .matchColor { clearPalette with color := 0x7F102030 } = .next t ∧
      ¬(Transparent clearPalette ∧ 128 ≤ alpha 0x7F102030) :=
  ⟨⟨_, exec_match_none (by decide) (by decide), by decide, by decide, by decide⟩,
    ⟨_, exec_match_some (best := 1) (by decide) (by decide), by decide, by decide, by decide⟩,
    ⟨_, exec_match_some (best := 0) (by decide) (by decide), by decide⟩⟩

theorem witness_LookupCommand : (0x1000000A : Word).toNat % 16 = 10 ∧ (0x1000000A : Word) ≠ 10 := by decide

theorem witness_LookupThenMatchGivesTheSameIndex : opaquePalette.plen ≤ 256 ∧
    ∃ t, exec .matchColor opaquePalette = .next t ∧ t.status.last = .ok :=
  ⟨by decide, _, exec_match_some (best := 1) (by decide) (by decide), rfl⟩

theorem witness_NopCommand : (0x00010000 : Word).toNat % 16 = 0 ∧ (0x00010000 : Word) ≠ 0 := by decide

theorem witness_ClrErrCommand : (0x0000001B : Word).toNat % 16 = 11 ∧ (0x0000001B : Word) ≠ 11 := by decide

theorem witness_RawWritersFrame : (∃ t, exec (.pack ⟨8, 8, 8, 8⟩) State.reset = .next t) ∧
    (∃ t, exec (.encode ⟨0, 5, 6, 5⟩) State.reset = .next t) ∧
    ∃ t, exec .matchColor clearPalette = .next t ∧ t.status.last ≠ .ok :=
  ⟨⟨_, rfl⟩, ⟨_, rfl⟩, ⟨_, exec_match_none (by decide) (by decide), by decide⟩⟩

theorem witness_ColorWritersFrame : (∃ t, exec (.unpack ⟨8, 8, 8, 8⟩) State.reset = .next t) ∧
    (∃ t, exec .lookup State.reset = .next t) ∧
    ∃ t, exec (.decode ⟨9, 0, 0, 0⟩) State.reset = .next t ∧ t.status.last ≠ .ok :=
  ⟨⟨_, rfl⟩, ⟨_, rfl⟩, ⟨_, rfl, by decide⟩⟩

theorem witness_ValWritersFrame : (∃ t, exec .luma State.reset = .next t) ∧
    ∃ t, exec (.rescale 0 9 8) State.reset = .next t ∧ t.status.last ≠ .ok := ⟨⟨_, rfl⟩, ⟨_, rfl, by decide⟩⟩

theorem witness_PaletteControlFrame : (∃ t, exec (.setPlen 256) opaquePalette = .next t) ∧
    ∃ t, exec .classify State.reset = .next t ∧ t.status.last ≠ .ok :=
  ⟨⟨_, rfl⟩, ⟨_, exec_classify_empty rfl, by decide⟩⟩

theorem witness_StatusOnlyFrame : (∃ t, exec .nop State.reset = .next t) ∧ ∃ t, exec .clrErr State.reset = .next t :=
  ⟨⟨_, rfl⟩, ⟨_, rfl⟩⟩

/-- A state with a VALID class, an error on record and a palette write to come has the invariant and steps. -/
theorem witness_StepKeepsTheInvariant : ∃ s t : State, s.Inv ∧ s.pclass.valid = true ∧ s.status.last ≠ .ok ∧
    step s = .next t :=
  ⟨{ opaquePalette with
      pclass := ⟨true, false, true⟩
      status := ⟨.failed .illegalCommand, .failed .emptyPalette⟩
      script := [.write 0x1FF 0] }, _,
    ⟨by decide, by decide, .inr ⟨by decide, by decide⟩, by decide⟩, rfl, by decide, (step_move _ _ _ rfl).trans rfl⟩

/-- Each event of R20, and the reader of a VALID class. -/
theorem witness_PclassIsClearedExactlyByTheListedEvents :
    (∃ t, step (withScript [.reset]) = .next t) ∧
    ((0x100 : Addr) ≤ 0x1FF ∧ ∃ t, step (withScript [.write 0x1FF 0]) = .next t) ∧
    (decode 0x00010007 = some (.setPlen 256) ∧ ∃ t, step (withScript [.write 0 0x00010007]) = .next t) ∧
    ∃ s t : State, s.Inv ∧ s.pclass.valid = true ∧ s.pclass.word ≠ 0 ∧ step s = .next t ∧ t.pclass.word = 0 :=
  ⟨⟨_, rfl⟩, ⟨by decide, _, rfl⟩, ⟨by decide, _, rfl⟩,
    { opaquePalette with pclass := ⟨true, false, true⟩, script := [.reset] }, _,
    ⟨by decide, by decide, .inr ⟨by decide, by decide⟩, by decide⟩, rfl, by decide, rfl, by decide⟩

theorem witness_PaletteChangesOnlyByHostWriteOrReset : ∃ s t : State, step s = .next t ∧ t.palAt 255 ≠ s.palAt 255 :=
  ⟨{ State.reset with pal := [(255, 1)], script := [.write 0x1FF 2] }, _, rfl, by decide⟩

theorem witness_HostMoveIsAParameterOfTheStep : (withScript [.read 0x1FF, .reset]).script = .read 0x1FF :: [.reset] := rfl

theorem witness_FirstCommandsAfterReset : State.reset = State.reset ∧
    (∃ s : State, opaquePalette.afterReset = s.afterReset) ∧ opaquePalette.afterReset ≠ State.reset ∧
    Legal ⟨0, 0, 0, 0⟩ ∧ Legal ⟨8, 8, 8, 8⟩ := ⟨rfl, ⟨_, rfl⟩, by decide, by decide, by decide⟩

end Sys2Proof.Tests
end

/-! ## State family: what a host move can do, and what every step keeps (spec/10_state.md) -/

namespace Sys2Proof.Machine

open Sys2Proof.Spec

/-! ### The address map (R42) -/

/-- The palette addresses, as numbers (R42). -/
theorem target_eq_pal_iff (a : Addr) (i : Byte) : target a = .pal i ↔ a.toNat = 0x100 + i.toNat := by
  have ha := a.isLt
  have hi := i.isLt
  have hle : (0x100 : Addr) ≤ a ↔ 256 ≤ a.toNat := by simp [BitVec.le_def]
  by_cases h : (0x100 : Addr) ≤ a
  · have h256 := hle.1 h
    rw [target_pal h, Target.pal.injEq, ← BitVec.toNat_inj, field_toNat]
    omega
  · have h256 : ¬ 256 ≤ a.toNat := mt hle.2 h
    constructor
    · intro ht
      unfold target at ht
      rw [if_neg h] at ht
      split at ht <;> cases ht
    · omega

/-- A palette address is at least 0x100 (R42). -/
theorem le_of_target_pal {a : Addr} {i : Byte} (h : target a = .pal i) : 0x100 ≤ a := by
  have := (target_eq_pal_iff a i).1 h
  simp only [BitVec.le_def, BitVec.reduceToNat]
  omega

/-! ### Reading (R22, R42, R43) -/

theorem readWord_cmd (s : State) : s.readWord 0 = 0 := rfl

theorem readWord_status (s : State) : s.readWord 1 = s.status.word := rfl

theorem readWord_color (s : State) : s.readWord 2 = s.color := rfl

theorem readWord_raw (s : State) : s.readWord 3 = s.raw := rfl

theorem readWord_val (s : State) : s.readWord 4 = s.val.setWidth 32 := rfl

theorem readWord_plen (s : State) : s.readWord 5 = s.plen.setWidth 32 := rfl

theorem readWord_pclass (s : State) : s.readWord 6 = s.pclass.word := rfl

theorem readWord_id (s : State) : s.readWord 7 = Config.idValue := rfl

theorem readWord_reserved (s : State) {a : Addr} (h : 8 ≤ a) (h' : a < 0x100) : s.readWord a = 0 := by
  rw [State.readWord, target_reserved h h', State.readTarget]

theorem readWord_pal (s : State) {a : Addr} (h : 0x100 ≤ a) : s.readWord a = s.palAt (a.toNat - 0x100) := by
  have ha := (target_eq_pal_iff a _).1 (target_pal h)
  have hindex : (a.extractLsb' 0 8).toNat = a.toNat - 0x100 := by omega
  rw [State.readWord, target_pal h, State.readTarget, hindex]

/-- The four bits of a STATUS field as the code of R141. -/
theorem StatusCode.code_toNat (c : StatusCode) : c.code.toNat = Spec.code c := by
  rcases c with _ | ⟨_ | _ | _⟩ <;> rfl

/-- The word of STATUS as a number (R17). -/
theorem Status.word_toNat (t : Status) : t.word.toNat = Spec.code t.last + 16 * Spec.code t.first := by
  simp only [Status.word, append_toNat, StatusCode.code_toNat, BitVec.toNat_ofNat]
  omega

/-- The word of PCLASS as a number (R19). -/
theorem PClass.word_toNat (p : PClass) :
    p.word.toNat = p.noAlpha.toNat + 2 * p.oneBitAlpha.toNat + 4 * p.valid.toNat := by
  simp only [PClass.word, append_toNat, BitVec.toNat_ofBool, BitVec.toNat_ofNat]
  omega

/-- Settles O12, address by address with the rules for reading. -/
theorem addressMapReadsTheState : Obligations.AddressMapReadsTheState := by
  intro s
  refine ⟨readWord_cmd s, ?_, readWord_color s, readWord_raw s, ?_, ?_, ?_, readWord_id s, ?_, fun a h => readWord_pal s h⟩
  · rw [readWord_status, Status.word_toNat]
  · rw [readWord_val, BitVec.toNat_setWidth_of_le (by omega)]
  · rw [readWord_plen, BitVec.toNat_setWidth_of_le (by omega)]
  · rw [readWord_pclass, PClass.word_toNat]
  · intro a h h'
    refine readWord_reserved s h ?_
    simp only [BitVec.le_def, BitVec.lt_def, BitVec.reduceToNat] at h' ⊢
    omega

/-- Settles O13: a field is a quotient and a remainder, a concatenation a weighted sum. -/
theorem colorFieldsAreItsFourBytes : Obligations.ColorFieldsAreItsFourBytes := by
  constructor
  · intro c
    have hc := c.isLt
    simp only [channelsOf, field_toNat, alpha, red, green, blue]
    omega
  · intro c
    simp only [colorOf, append_toNat]
    omega

/-- Settles O7: the registers by definition, the seven addresses below ID one by one. -/
theorem resetStateHoldsTheSpecValues : Obligations.ResetStateHoldsTheSpecValues := by
  refine ⟨rfl, rfl, rfl, rfl, rfl, rfl, readWord_id _, ?_, fun i => State.palAt_unwritten _ i rfl, rfl, rfl, rfl⟩
  intro a h
  rcases target_cases a with rfl | rfl | rfl | rfl | rfl | rfl | rfl | rfl | ⟨h8, -⟩ | h256
  · exact readWord_cmd _
  · exact readWord_status _
  · exact readWord_color _
  · exact readWord_raw _
  · exact readWord_val _
  · exact readWord_plen _
  · exact readWord_pclass _
  all_goals
    simp only [BitVec.le_def, BitVec.lt_def, BitVec.reduceToNat] at *
    omega

/-! ### Which commands a word decodes to (R67) -/

theorem eq_of_decodeN {w : Word} {i j : Instr} (h : decodeN w j = some i) : i = j := by
  unfold decodeN at h
  split at h
  · exact (Option.some.inj h).symm
  · cases h

theorem eq_of_decodeW {w : Word} {mk : Widths → Instr} {i : Instr} (h : decodeW w mk = some i) :
    (widthsField w).ok = true ∧ i = mk (widthsField w) := by
  unfold decodeW at h
  split at h
  · split at h
    · exact ⟨‹_›, (Option.some.inj h).symm⟩
    · cases h
  · cases h

theorem eq_of_decodeR {w : Word} {i : Instr} (h : decodeR w = some i) :
    (Width.ok (fromField w) && Width.ok (toField w)) = true ∧
      i = .rescale (valueField w) (fromField w) (toField w) := by
  unfold decodeR at h
  split at h
  · split at h
    · exact ⟨‹_›, (Option.some.inj h).symm⟩
    · cases h
  · cases h

theorem eq_of_decodeP {w : Word} {i : Instr} (h : decodeP w = some i) :
    lengthField w ≤ 256 ∧ i = .setPlen (lengthField w) := by
  unfold decodeP at h
  split at h
  · split at h
    · exact ⟨‹_›, (Option.some.inj h).symm⟩
    · cases h
  · cases h

/-- The decoder answers well-formed commands only (R62 to R64, R67). -/
theorem decode_wellFormed {w : Word} {i : Instr} (h : decode w = some i) : i.wellFormed = true := by
  have formatW : ∀ mk : Widths → Instr, (∀ x, (mk x).wellFormed = x.ok) → decodeW w mk = some i →
      i.wellFormed = true := by
    intro mk hmk hd
    obtain ⟨hok, rfl⟩ := eq_of_decodeW hd
    rw [hmk, hok]
  unfold decode at h
  split at h
  · unfold decodeOp at h
    split at h
    case h_2 =>
      obtain ⟨hok, rfl⟩ := eq_of_decodeR h
      exact hok
    case h_3 => exact formatW .pack (fun _ => rfl) h
    case h_4 => exact formatW .unpack (fun _ => rfl) h
    case h_5 => exact formatW .encode (fun _ => rfl) h
    case h_6 => exact formatW .decode (fun _ => rfl) h
    case h_8 =>
      obtain ⟨hn, rfl⟩ := eq_of_decodeP h
      exact decide_eq_true hn
    case h_13 => cases h
    all_goals rw [eq_of_decodeN h]; rfl
  · cases h

/-! ### What a host move can do (R172) -/

/-- What a host move `m` can make of the state `s`: the complete list, each entry with its guard (R47, R48, R72, R160). -/
inductive MoveEffect (s : State) : HostMove → State → Prop
  | reset : MoveEffect s .reset s.afterReset
  | read (a : Addr) : MoveEffect s (.read a) (s.pushRead (s.readWord a))
  | ignored {a : Addr} (v : Word) (h : target a ∈ [.status, .val, .plen, .pclass, .id, .reserved]) :
      MoveEffect s (.write a v) s
  | color {a : Addr} (v : Word) (h : target a = .color) : MoveEffect s (.write a v) (s.setColor v)
  | raw {a : Addr} (v : Word) (h : target a = .raw) : MoveEffect s (.write a v) (s.setRaw v)
  | pal {a : Addr} {i : Byte} (v : Word) (h : target a = .pal i) : MoveEffect s (.write a v) (s.writePal i v)
  | illegal {w : Word} (h : decode w = none) : MoveEffect s (.write 0 w) (s.raise .illegalCommand)
  | command {w : Word} {i : Instr} {t : State} (hd : decode w = some i) (h : exec i s = .next t) :
      MoveEffect s (.write 0 w) t

/-- A write by its target (R48). -/
theorem moveEffect_of_writeWord {a : Addr} {v : Word} {s t : State} (h : writeWord a v s = .next t) :
    MoveEffect s (.write a v) t := by
  unfold writeWord at h
  cases ht : target a <;> rw [ht] at h
  case cmd =>
    obtain rfl := target_cmd ht
    change execWord v s = .next t at h
    cases hd : decode v with
    | none =>
      rw [execWord_illegal s hd] at h
      cases h
      exact .illegal hd
    | some i => exact .command hd (by rwa [execWord_legal s hd] at h)
  case color => cases h; exact .color v ht
  case raw => cases h; exact .raw v ht
  case pal i => cases h; exact .pal v ht
  all_goals cases h; exact .ignored v (by simp [ht])

/-- Everything performing a host move can do. -/
theorem moveEffect_of_perform {m : HostMove} {s t : State} (h : perform m s = .next t) : MoveEffect s m t := by
  cases m with
  | reset => cases h; exact .reset
  | read a => cases h; exact .read a
  | write a v => exact moveEffect_of_writeWord h

/-- Everything a step can do: nothing with no move to come, else what its move does. -/
theorem step_cases {s t : State} (h : step s = .next t) :
    (s.script = [] ∧ t = s) ∨ ∃ m rest, s.script = m :: rest ∧ MoveEffect (s.setScript rest) m t := by
  cases hs : s.script with
  | nil =>
    rw [step_idle s hs] at h
    cases h
    exact .inl ⟨rfl, rfl⟩
  | cons m rest =>
    rw [step_move s m rest hs] at h
    exact .inr ⟨m, rest, rfl, moveEffect_of_perform h⟩

/-! ### The invariant (R18, R19, R20, R143) -/

/-- The invariant is about the palette, PLEN, PCLASS and STATUS: a state that agrees on them has it too. -/
theorem State.Inv.congr {s t : State} (hs : s.Inv) (hpal : t.pal = s.pal) (hpast : t.palPast = s.palPast)
    (hplen : t.plen = s.plen) (hclass : t.pclass = s.pclass) (hstatus : t.status = s.status) : t.Inv := by
  have hentry : t.palAt = s.palAt := by
    funext i
    simp only [State.palAt, State.palUnwritten, hpal, hpast]
  have hpalette : t.palette = s.palette := by simp only [State.palette, hentry, hplen]
  obtain ⟨hcanon, hbound, hcurrent, hfirst⟩ := hs
  exact ⟨hpal ▸ hcanon, hplen ▸ hbound, by rwa [State.ClassCurrent, hclass, hplen, hpalette], hstatus ▸ hfirst⟩

/-- Clearing LAST keeps the invariant (R72). -/
theorem State.Inv.complete {s : State} (hs : s.Inv) : s.complete.Inv :=
  ⟨hs.palCanonical, hs.plenBound, hs.classCurrent, fun hlast => absurd rfl hlast⟩

/-- Raising an error keeps the invariant: FIRST is recorded with LAST (R143). -/
theorem State.Inv.raise {s : State} (hs : s.Inv) (e : CmdError) : (s.raise e).Inv :=
  ⟨hs.palCanonical, hs.plenBound, hs.classCurrent, fun _ => stickyFirst_ne_ok _ e⟩

/-- A palette write keeps the cells canonical and clears PCLASS (R20, R48). -/
theorem State.Inv.writePal {s : State} (hs : s.Inv) (i : Byte) (v : Word) : (s.writePal i v).Inv :=
  ⟨Memory.wf_store s.pal i v hs.palCanonical, hs.plenBound, .inl rfl, hs.firstRecorded⟩

/-- The reset values of R27 have the invariant, whatever the draw of PAL_RESET. -/
theorem State.Inv.of_resetValues {s : State} (hpal : s.pal = State.reset.pal) (hplen : s.plen = State.reset.plen)
    (hclass : s.pclass = State.reset.pclass) (hstatus : s.status = State.reset.status) : s.Inv where
  palCanonical := by rw [hpal]; exact Memory.wf_nil
  plenBound := by rw [hplen]; decide
  classCurrent := .inl hclass
  firstRecorded := fun hlast => absurd (by rw [hstatus]; rfl) hlast

/-- Reset establishes the invariant, whatever held before (R160). -/
theorem State.Inv.afterReset (s : State) : s.afterReset.Inv := .of_resetValues rfl rfl rfl rfl

/-- Settles O53: the reset state holds the reset values. -/
theorem resetHasTheInvariant : Obligations.ResetHasTheInvariant := State.Inv.of_resetValues rfl rfl rfl rfl

/-- Every command keeps the invariant. -/
theorem State.Inv.exec {i : Instr} {s t : State} (hs : s.Inv) (h : Machine.exec i s = .next t) : t.Inv := by
  rcases exec_cases i s with ⟨e, h'⟩ | ⟨v, h'⟩ | ⟨v, h'⟩ | ⟨v, h'⟩ | ⟨n, -, hn, h'⟩ | ⟨-, hne, h'⟩ | ⟨-, h'⟩ | ⟨-, h'⟩ <;>
    rw [h'] at h <;> cases h
  · exact hs.raise e
  · exact State.Inv.complete (s := s.setColor v) (hs.congr rfl rfl rfl rfl rfl)
  · exact State.Inv.complete (s := s.setRaw v) (hs.congr rfl rfl rfl rfl rfl)
  · exact State.Inv.complete (s := s.setVal v) (hs.congr rfl rfl rfl rfl rfl)
  · exact ⟨hs.palCanonical, hn, .inl rfl, fun hlast => absurd rfl hlast⟩
  · exact ⟨hs.palCanonical, hs.plenBound, .inr ⟨hne, rfl⟩, fun hlast => absurd rfl hlast⟩
  · exact hs.complete
  · exact ⟨hs.palCanonical, hs.plenBound, hs.classCurrent, fun hlast => absurd rfl hlast⟩

/-- Every host move keeps the invariant. -/
theorem State.Inv.move {m : HostMove} {s t : State} (hs : s.Inv) (h : MoveEffect s m t) : t.Inv := by
  cases h with
  | reset => exact .afterReset s
  | ignored => exact hs
  | read | color | raw => exact hs.congr rfl rfl rfl rfl rfl
  | pal v => exact hs.writePal _ v
  | illegal => exact hs.raise _
  | command _ h => exact hs.exec h

/-- Settles O54: an idle step changes nothing, and every move keeps the invariant. -/
theorem stepKeepsTheInvariant : Obligations.StepKeepsTheInvariant := by
  intro s t hs h
  rcases step_cases h with ⟨-, rfl⟩ | ⟨m, rest, -, hm⟩
  · exact hs
  · have hs' : (s.setScript rest).Inv := hs.congr rfl rfl rfl rfl rfl
    exact hs'.move hm

/-! ### PCLASS (R20) -/

/-- PCLASS reads zero exactly when it is cleared (R19, R20). -/
theorem PClass.word_eq_zero_iff (p : PClass) : p.word = 0 ↔ p = PClass.cleared := by
  obtain ⟨na, ob, vd⟩ := p
  cases na <;> cases ob <;> cases vd <;> decide

/-- A computed class is never the cleared one: its VALID is set (R114). -/
theorem classOf_ne_cleared (P : List Word) : classOf P ≠ PClass.cleared :=
  fun h => Bool.noConfusion (congrArg PClass.valid h)

theorem wellFormed_setPlen (n : BitVec 9) : (Instr.setPlen n).wellFormed = decide (n ≤ 256) := rfl

/-- SETPLEN in range completes (R111). -/
theorem exec_setPlen_legal {n : BitVec 9} (s : State) (hn : n ≤ 256) :
    exec (.setPlen n) s = .next ((s.setPlen n).setPclass PClass.cleared).complete := by
  change runCommand s (ifLegal (.setPlen n) _) = _
  rw [ifLegal_true _ (by rw [wellFormed_setPlen, decide_eq_true hn]), runCommand_ok]

/-- What a command leaves in PCLASS: what was there, the clearing of SETPLEN, or the class of the palette. -/
theorem exec_pclass {i : Instr} {s t : State} (h : exec i s = .next t) :
    t.pclass = s.pclass ∨ (∃ n, i = .setPlen n) ∨ t.pclass = classOf s.palette := by
  rcases exec_cases i s with ⟨e, h'⟩ | ⟨v, h'⟩ | ⟨v, h'⟩ | ⟨v, h'⟩ | ⟨n, hi, -, h'⟩ | ⟨-, -, h'⟩ | ⟨-, h'⟩ | ⟨-, h'⟩ <;>
    rw [h'] at h <;> cases h
  case inr.inr.inr.inr.inl => exact .inr (.inl ⟨n, hi⟩)
  case inr.inr.inr.inr.inr.inl => exact .inr (.inr rfl)
  all_goals exact .inl rfl

/-- A host move that turns PCLASS from non-zero to zero is reset, a palette write, or SETPLEN (R20). -/
theorem moveEffect_clears_pclass {m : HostMove} {s t : State} (h : MoveEffect s m t) (hs : s.pclass ≠ PClass.cleared)
    (ht : t.pclass = PClass.cleared) :
    m = .reset ∨ (∃ a v, 0x100 ≤ a ∧ m = .write a v) ∨
      ∃ w n, m = .write 0 w ∧ decode w = some (.setPlen n) := by
  cases h with
  | reset => exact .inl rfl
  | @pal a _ v hp => exact .inr (.inl ⟨a, v, le_of_target_pal hp, rfl⟩)
  | read | ignored | color | raw | illegal => exact absurd ht hs
  | @command w i _ hd he =>
    rcases exec_pclass he with hp | ⟨n, rfl⟩ | hp
    · exact absurd (hp ▸ ht) hs
    · exact .inr (.inr ⟨w, n, rfl, hd⟩)
    · exact absurd (hp ▸ ht) (classOf_ne_cleared _)

/-- A VALID class is the classification of the palette as it is (R20). -/
theorem State.Inv.class_eq {s : State} (hs : s.Inv) (hv : s.pclass.valid = true) :
    (s.pclass.noAlpha, s.pclass.oneBitAlpha) = classify s.palette := by
  rcases hs.classCurrent with hc | ⟨-, hc⟩
  · rw [hc] at hv
    cases hv
  · rw [hc]
    rfl

/-- Settles O55: the three clearing events by their own rules, the converse from the list of what a move can do. -/
theorem pclassIsClearedExactlyByTheListedEvents : Obligations.PclassIsClearedExactlyByTheListedEvents := by
  refine ⟨?_, ?_, ?_, ?_, fun s hs hv => hs.class_eq hv⟩
  · intro s t rest hs h
    rw [step_move s _ rest hs] at h
    cases h
    exact (PClass.word_eq_zero_iff _).2 rfl
  · intro s t rest a v ha hs h
    rw [step_move s _ rest hs, perform, writeWord, target_pal ha] at h
    cases h
    exact (PClass.word_eq_zero_iff _).2 rfl
  · intro s t rest w n hs hd h
    have hn : n ≤ 256 := of_decide_eq_true ((wellFormed_setPlen n).symm.trans (decode_wellFormed hd))
    have he : execWord w (s.setScript rest) = .next t := by rwa [step_move s _ rest hs] at h
    rw [execWord_legal _ hd, exec_setPlen_legal _ hn] at he
    cases he
    exact ⟨rfl, (PClass.word_eq_zero_iff _).2 rfl⟩
  · intro s t h hs ht
    rw [PClass.word_eq_zero_iff] at ht
    rw [Ne, PClass.word_eq_zero_iff] at hs
    rcases step_cases h with ⟨-, rfl⟩ | ⟨m, rest, hm, he⟩
    · exact absurd ht hs
    · exact ⟨m, rest, hm, moveEffect_clears_pclass he hs ht⟩

/-! ### The palette (R15, R27) -/

/-- A host move that changes an entry is reset, or the write of the word the entry then reads as. -/
theorem moveEffect_changes_palAt {m : HostMove} {s t : State} {i : Nat} (h : MoveEffect s m t)
    (hne : t.palAt i ≠ s.palAt i) :
    m = .reset ∨ ∃ (a : Addr) (v : Word), a.toNat = 0x100 + i ∧ m = .write a v ∧ t.palAt i = v := by
  cases h with
  | reset => exact .inl rfl
  | @pal a j v hp =>
    have hi : i = j.toNat := by
      by_contra hij
      exact hne (s.palAt_writePal_ne j v i hij)
    subst hi
    exact .inr ⟨a, v, (target_eq_pal_iff a j).1 hp, rfl, s.palAt_writePal_same j v⟩
  | read | ignored | color | raw | illegal => exact absurd rfl hne
  | command _ he => exact absurd (exec_palAt he i) hne

/-- Settles O56: an idle step changes no entry, and of the moves only reset and the entry's own write do. -/
theorem paletteChangesOnlyByHostWriteOrReset : Obligations.PaletteChangesOnlyByHostWriteOrReset := by
  intro s t i h hne
  rcases step_cases h with ⟨-, rfl⟩ | ⟨m, rest, hm, he⟩
  · exact absurd rfl hne
  · exact ⟨m, rest, hm, moveEffect_changes_palAt he hne⟩

/-! ### The operands of a command (R25) -/

/-- The two states agree on everything a command reads: the data registers, PLEN and the palette (R25). -/
structure SameOperands (s₁ s₂ : State) : Prop where
  color : s₁.color = s₂.color
  raw : s₁.raw = s₂.raw
  val : s₁.val = s₂.val
  plen : s₁.plen = s₂.plen
  palAt : ∀ j, s₁.palAt j = s₂.palAt j

/-- The same command did the same in both states: it raised the same error, or completed with the same operands left. -/
inductive SameResult (s₁ s₂ : State) :
    Host.Outcome State Fault Refusal → Host.Outcome State Fault Refusal → Prop
  | failed (e : CmdError) : SameResult s₁ s₂ (.next (s₁.raise e)) (.next (s₂.raise e))
  | completed {u₁ u₂ : State} (h : SameOperands u₁ u₂) : SameResult s₁ s₂ (.next u₁.complete) (.next u₂.complete)

section
variable {s₁ s₂ : State}

theorem SameOperands.palette (h : SameOperands s₁ s₂) : s₁.palette = s₂.palette := by
  simp only [State.palette, h.plen, funext h.palAt]

theorem SameOperands.setColor (h : SameOperands s₁ s₂) {v₁ v₂ : Word} (hv : v₁ = v₂) :
    SameOperands (s₁.setColor v₁) (s₂.setColor v₂) := ⟨hv, h.raw, h.val, h.plen, h.palAt⟩

theorem SameOperands.setRaw (h : SameOperands s₁ s₂) {v₁ v₂ : Word} (hv : v₁ = v₂) :
    SameOperands (s₁.setRaw v₁) (s₂.setRaw v₂) := ⟨h.color, hv, h.val, h.plen, h.palAt⟩

theorem SameOperands.setVal (h : SameOperands s₁ s₂) {v₁ v₂ : Byte} (hv : v₁ = v₂) :
    SameOperands (s₁.setVal v₁) (s₂.setVal v₂) := ⟨h.color, h.raw, hv, h.plen, h.palAt⟩

theorem SameOperands.setPlen (h : SameOperands s₁ s₂) (n : BitVec 9) :
    SameOperands (s₁.setPlen n) (s₂.setPlen n) := ⟨h.color, h.raw, h.val, rfl, h.palAt⟩

theorem SameOperands.setPclass (h : SameOperands s₁ s₂) (p₁ p₂ : PClass) :
    SameOperands (s₁.setPclass p₁) (s₂.setPclass p₂) := ⟨h.color, h.raw, h.val, h.plen, h.palAt⟩

theorem SameOperands.setStatus (h : SameOperands s₁ s₂) (t₁ t₂ : Status) :
    SameOperands (s₁.setStatus t₁) (s₂.setStatus t₂) := ⟨h.color, h.raw, h.val, h.plen, h.palAt⟩

/-- The legality of a command's immediates is no matter of the state. -/
theorem SameOperands.ifLegal {u₁ u₂ : State} (h : SameOperands u₁ u₂) (i : Instr) :
    SameResult s₁ s₂ (runCommand s₁ (Machine.ifLegal i u₁)) (runCommand s₂ (Machine.ifLegal i u₂)) := by
  cases hi : i.wellFormed with
  | true => rw [ifLegal_true _ hi, ifLegal_true _ hi]; exact .completed h
  | false => rw [ifLegal_false _ hi, ifLegal_false _ hi]; exact .failed _

/-- With the same operands a command does the same (R25). -/
theorem SameOperands.exec (h : SameOperands s₁ s₂) (i : Instr) :
    SameResult s₁ s₂ (Machine.exec i s₁) (Machine.exec i s₂) := by
  cases i with
  | nop => exact .completed h
  | rescale value fromW toW => exact (h.setVal rfl).ifLegal _
  | pack w => exact (h.setRaw (by rw [h.color])).ifLegal _
  | unpack w => exact (h.setColor (by rw [h.raw])).ifLegal _
  | encode w => exact (h.setRaw (by rw [h.color])).ifLegal _
  | decode w => exact (h.setColor (by rw [h.raw])).ifLegal _
  | luma => exact .completed (h.setVal (by rw [h.color]))
  | setPlen n => exact ((h.setPlen n).setPclass _ _).ifLegal _
  | classify =>
    by_cases hp : s₁.plen = 0
    · rw [exec_classify_empty hp, exec_classify_empty (h.plen ▸ hp)]
      exact .failed _
    · rw [exec_classify_some hp, exec_classify_some (h.plen ▸ hp)]
      exact .completed (h.setPclass _ _)
  | matchColor =>
    by_cases hp : s₁.plen = 0
    · rw [exec_match_empty hp, exec_match_empty (h.plen ▸ hp)]
      exact .failed _
    · have hsame : nearest s₂.color s₂.palette = nearest s₁.color s₁.palette := by rw [h.color, h.palette]
      cases hn : nearest s₁.color s₁.palette with
      | none =>
        rw [exec_match_none hp hn, exec_match_none (h.plen ▸ hp) (hsame.trans hn)]
        exact .failed _
      | some best =>
        rw [exec_match_some hp hn, exec_match_some (h.plen ▸ hp) (hsame.trans hn)]
        exact .completed (h.setRaw rfl)
  | lookup => exact .completed (h.setColor (by rw [h.raw, h.palAt]))
  | clrErr => exact .completed (h.setStatus _ _)

/-- The same result, read off the two next states. -/
theorem SameResult.next {t₁ t₂ : State} (hr : SameResult s₁ s₂ (.next t₁) (.next t₂)) (h : SameOperands s₁ s₂) :
    t₁.status.last = t₂.status.last ∧ SameOperands t₁ t₂ := by
  cases hr with
  | failed e => exact ⟨rfl, h.setStatus _ _⟩
  | completed hu => exact ⟨rfl, hu.setStatus _ _⟩

end

/-- What a completed CLASSIFY leaves in PCLASS (R114). -/
theorem exec_classify_pclass {s t : State} (h : exec .classify s = .next t) (hok : t.status.last = .ok) :
    t.pclass = classOf s.palette := by
  by_cases hp : s.plen = 0
  · rw [exec_classify_empty hp] at h
    cases h
    cases hok
  · rw [exec_classify_some hp] at h
    cases h
    rfl

/-- What a completed SETPLEN leaves in PCLASS (R111). -/
theorem exec_setPlen_pclass {n : BitVec 9} {s t : State} (h : exec (.setPlen n) s = .next t)
    (hok : t.status.last = .ok) : t.pclass = PClass.cleared := by
  by_cases hn : n ≤ 256
  · rw [exec_setPlen_legal s hn] at h
    cases h
    rfl
  · change runCommand s (ifLegal (.setPlen n) _) = _ at h
    rw [ifLegal_false _ (by rw [wellFormed_setPlen, decide_eq_false hn])] at h
    cases h
    cases hok

/-- Settles O21: the same operands give the same result, and PCLASS is a function of the palette where it is written. -/
theorem commandResultDependsOnOperandsOnly : Obligations.CommandResultDependsOnOperandsOnly := by
  intro i s₁ s₂ t₁ t₂ hcolor hraw hval hplen hpal h₁ h₂
  have hs : SameOperands s₁ s₂ := ⟨hcolor, hraw, hval, hplen, hpal⟩
  have hr := hs.exec i
  rw [h₁, h₂] at hr
  obtain ⟨hlast, ht⟩ := hr.next hs
  refine ⟨hlast, ht.color, ht.raw, ht.val, ht.plen, ht.palAt, ?_⟩
  rintro hok (rfl | ⟨n, rfl⟩)
  · rw [exec_classify_pclass h₁ hok, exec_classify_pclass h₂ (hlast ▸ hok), hs.palette]
  · rw [exec_setPlen_pclass h₁ hok, exec_setPlen_pclass h₂ (hlast ▸ hok)]

/-! ### The host's transfers as a parameter (R26) -/

/-- The words a move returns to the host: the word at the address for a read, none else (R47). -/
def HostMove.answer (p : Pcu) : HostMove → List Word
  | .reset => []
  | .read a => [State.readWord { toPcu := p, script := [], reads := [] } a]
  | .write _ _ => []

/-- A move answers one word at most. -/
theorem HostMove.answer_reverse (p : Pcu) (m : HostMove) : (m.answer p).reverse = m.answer p := by
  cases m <;> rfl

/-- A write neither reads nor writes the host's side. -/
theorem writeWord_withHost (a : Addr) (v : Word) (s : State) (ms : List HostMove) (ws : List Word) :
    ∃ t, writeWord a v s = .next t ∧ writeWord a v (s.withHost ms ws) = .next (t.withHost ms ws) := by
  unfold writeWord
  cases target a
  case cmd =>
    change ∃ t, execWord v s = .next t ∧ execWord v (s.withHost ms ws) = .next (t.withHost ms ws)
    cases hd : decode v with
    | none => exact ⟨_, execWord_illegal s hd, execWord_illegal _ hd⟩
    | some i =>
      rw [execWord_legal s hd, execWord_legal _ hd]
      exact exec_withHost i s ms ws
  all_goals exact ⟨_, rfl, rfl⟩

/-- A host move does the same to the PCU under every host side; its answer goes on top of the words read. -/
theorem perform_pcu (m : HostMove) (p : Pcu) : ∃ q : Pcu, ∀ ms ws,
    perform m { toPcu := p, script := ms, reads := ws } =
      .next { toPcu := q, script := ms, reads := m.answer p ++ ws } := by
  cases m with
  | reset => exact ⟨(State.afterReset { toPcu := p, script := [], reads := [] }).toPcu, fun ms ws => rfl⟩
  | read a => exact ⟨p, fun ms ws => rfl⟩
  | write a v =>
    obtain ⟨t, ht, -⟩ := writeWord_withHost a v { toPcu := p, script := [], reads := [] } [] []
    refine ⟨t.toPcu, fun ms ws => ?_⟩
    obtain ⟨u, hu, hhost⟩ := writeWord_withHost a v { toPcu := p, script := [], reads := [] } ms ws
    rw [ht] at hu
    cases hu
    exact hhost

/-- The step with its move as the parameter (R26), and performing that move under any host side. -/
theorem stepUnder_perform (m : HostMove) (p : Pcu) : ∃ q : Pcu, stepUnder m p = .next (q, m.answer p) ∧
    ∀ ms ws, perform m { toPcu := p, script := ms, reads := ws } =
      .next { toPcu := q, script := ms, reads := m.answer p ++ ws } := by
  obtain ⟨q, hq⟩ := perform_pcu m p
  exact ⟨q, by rw [stepUnder, hq, List.append_nil], hq⟩

/-- Settles O58: the move does the same to the PCU under every host side. -/
theorem hostMoveIsAParameterOfTheStep : Obligations.HostMoveIsAParameterOfTheStep := by
  intro s m
  obtain ⟨q, hstep, hperform⟩ := stepUnder_perform m s.toPcu
  refine ⟨q, m.answer s.toPcu, hstep, hperform s.script s.reads, ?_, ?_⟩
  · cases m <;> rfl
  · intro rest hs
    rw [step_move s m rest hs]
    exact hperform rest s.reads

/-- A run of the machine begins with a step. -/
theorem core_run_succ {k : Nat} {s t : State} (h : step s = .next t) : core.run (k + 1) s = core.run k t := by
  have hcore : core.step s = .next t := h
  simp only [Host.Core.run, hcore]

/-- The run under a sequence of moves and the machine's run of it as a script agree, whatever was read before. -/
theorem runUnder_core_run (moves : List HostMove) (p : Pcu) : ∃ (q : Pcu) (words : List Word),
    runUnder moves p = .next (q, words) ∧ ∀ ws : List Word,
      core.run moves.length ({ toPcu := p, script := moves, reads := ws } : State) =
        .next ({ toPcu := q, script := [], reads := words.reverse ++ ws } : State) := by
  induction moves generalizing p with
  | nil => exact ⟨p, [], rfl, fun ws => rfl⟩
  | cons m ms ih =>
    obtain ⟨p', hstep, hperform⟩ := stepUnder_perform m p
    obtain ⟨q, words, hrun, hcore⟩ := ih p'
    refine ⟨q, m.answer p ++ words, by simp only [runUnder, hstep, hrun], fun ws => ?_⟩
    rw [List.length_cons, core_run_succ (s := ⟨p, m :: ms, ws⟩) (hperform ms ws), hcore, List.reverse_append, HostMove.answer_reverse,
      List.append_assoc]

/-- Settles O59, by induction over the moves, for any words read before. -/
theorem runOfAScriptIsTheRunOfItsMoves : Obligations.RunOfAScriptIsTheRunOfItsMoves := by
  intro moves p
  obtain ⟨q, words, hrun, hcore⟩ := runUnder_core_run moves p
  exact ⟨q, words, hrun, by simpa only [List.append_nil] using hcore []⟩

end Sys2Proof.Machine

/-! ## Memory family: what a read and a write do at each address (spec/20_memory.md) -/

namespace Sys2Proof.Machine

open Sys2Proof.Spec

/-! ### Addresses (R42) -/

/-- The addresses up to the last reserved one lie below the palette (R42). -/
theorem lt_palette_of_le_reserved {a : Addr} (h : a ≤ 0xFF) : a < 0x100 := by
  simp only [BitVec.le_def, BitVec.lt_def, BitVec.reduceToNat] at h ⊢
  omega

/-- The entry a palette address names (R42). -/
theorem palIndex_toNat {a : Addr} (h : 0x100 ≤ a) : (a.extractLsb' 0 8).toNat = a.toNat - 0x100 := by
  have := (target_eq_pal_iff a _).1 (target_pal h)
  omega

/-! ### Writing (R43, R48) -/

theorem writeWord_cmd (v : Word) (s : State) : writeWord 0 v s = execWord v s := rfl

theorem writeWord_color (v : Word) (s : State) : writeWord 2 v s = .next (s.setColor v) := rfl

theorem writeWord_raw (v : Word) (s : State) : writeWord 3 v s = .next (s.setRaw v) := rfl

theorem writeWord_readOnly {a : Addr} (v : Word) (s : State) (h : a = 1 ∨ a = 4 ∨ a = 5 ∨ a = 6 ∨ a = 7) :
    writeWord a v s = .next s := by
  rcases h with rfl | rfl | rfl | rfl | rfl <;> rfl

theorem writeWord_reserved {a : Addr} (v : Word) (s : State) (h : 8 ≤ a) (h' : a ≤ 0xFF) :
    writeWord a v s = .next s := by
  rw [writeWord, target_reserved h (lt_palette_of_le_reserved h'), writeTarget]

theorem writeWord_pal {a : Addr} (v : Word) (s : State) (h : 0x100 ≤ a) :
    writeWord a v s = .next (s.writePal (a.extractLsb' 0 8) v) := by
  rw [writeWord, target_pal h, writeTarget]

/-- Raising an error is what R143 says. -/
theorem raise_eq_raised (e : CmdError) (s : State) : s.raise e = raised e s := by
  rcases hfirst : s.status.first with _ | f <;> simp [State.raise, State.setStatus, raised, hfirst]

/-- Settles O11, clause by clause with the rules for writing. -/
theorem writeEffectsAreTheListedOnes : Obligations.WriteEffectsAreTheListedOnes := by
  intro s v
  refine ⟨fun i hd => ?_, fun hd => ?_, writeWord_color v s, writeWord_raw v s, fun a h => ?_,
    fun a => writeWord_readOnly v s, fun a => writeWord_reserved v s⟩
  · rw [writeWord_cmd, execWord_legal s hd]
  · rw [writeWord_cmd, execWord_illegal s hd, raise_eq_raised]
  · rw [← palIndex_toNat h]
    exact ⟨_, writeWord_pal v s h, s.palAt_writePal_same _ v, s.palAt_writePal_ne _ v,
      (PClass.word_eq_zero_iff _).2 rfl, rfl, rfl, rfl, rfl, rfl, rfl, rfl, rfl⟩

/-! ### The bytes of a packed pixel (R49) -/

/-- Byte `j` of a packed pixel as a number. -/
theorem rawByte_toNat (raw : Word) (j : Nat) : (rawByte raw j).toNat = raw.toNat / 2 ^ (8 * j) % 2 ^ 8 :=
  field_toNat raw (8 * j) 8

theorem rawBytes_getElem? (raw : Word) {j k : Nat} (h : j < k) : (rawBytes raw k)[j]? = some (rawByte raw j) := by
  simp [rawBytes, h]

/-- Without its lowest byte, a pixel is the pixel shifted down by a byte. -/
theorem rawByte_succ (raw : Word) (j : Nat) : rawByte raw (j + 1) = rawByte (raw >>> 8) j := by
  apply BitVec.eq_of_toNat_eq
  rw [rawByte_toNat, rawByte_toNat, BitVec.toNat_ushiftRight, Nat.shiftRight_eq_div_pow, Nat.div_div_eq_div_mul,
    ← Nat.pow_add, Nat.mul_succ, Nat.add_comm]

theorem rawBytes_succ (raw : Word) (k : Nat) : rawBytes raw (k + 1) = rawByte raw 0 :: rawBytes (raw >>> 8) k := by
  simp [rawBytes, List.range_succ_eq_map, rawByte_succ]

/-- A byte put below the bytes assembled: of these, the top one is shifted out. -/
theorem rawOfBytes_cons_toNat (b : Byte) (bs : List Byte) :
    (rawOfBytes (b :: bs)).toNat = (rawOfBytes bs).toNat % 2 ^ 24 * 2 ^ 8 + b.toNat := by
  have hshift : (rawOfBytes bs).toNat <<< 8 % 2 ^ 32 = ((rawOfBytes bs).toNat % 2 ^ 24) <<< 8 := by
    simp only [Nat.shiftLeft_eq]
    omega
  rw [rawOfBytes, BitVec.toNat_or, BitVec.toNat_setWidth_of_le (by omega), BitVec.toNat_shiftLeft, hshift, Nat.or_comm,
    ← Nat.shiftLeft_add_eq_or_of_lt b.isLt, Nat.shiftLeft_eq]

/-- Assembling the `k` lowest bytes of RAW keeps RAW's `8 * k` lowest bits. -/
theorem rawOfBytes_rawBytes_toNat (raw : Word) (k : Nat) :
    (rawOfBytes (rawBytes raw k)).toNat = raw.toNat % 2 ^ (8 * k) := by
  induction k generalizing raw with
  | zero => simp [rawBytes, rawOfBytes, Nat.mod_one]
  | succ k ih =>
    have htop : raw.toNat / 2 ^ 8 % 2 ^ (8 * k) < 2 ^ 24 :=
      (Nat.mod_le _ _).trans_lt (Nat.div_lt_of_lt_mul raw.isLt)
    calc (rawOfBytes (rawBytes raw (k + 1))).toNat
        = raw.toNat / 2 ^ 8 % 2 ^ (8 * k) * 2 ^ 8 + raw.toNat % 2 ^ 8 := by
          rw [rawBytes_succ, rawOfBytes_cons_toNat, ih, rawByte_toNat, Nat.mul_zero, Nat.pow_zero, Nat.div_one,
            BitVec.toNat_ushiftRight, Nat.shiftRight_eq_div_pow, Nat.mod_eq_of_lt htop]
      _ = raw.toNat % 2 ^ (8 * (k + 1)) := by
          rw [Nat.mul_succ, Nat.add_comm (8 * k), Nat.pow_add, Nat.mod_mul, Nat.mul_comm, Nat.add_comm]

/-- Settles O14, the assembly by induction over the bytes. -/
theorem pixelBytesAreLittleEndian : Obligations.PixelBytesAreLittleEndian := fun raw k _ =>
  ⟨fun j h => ⟨rawBytes_getElem? raw h, rawByte_toNat raw j⟩, rawOfBytes_rawBytes_toNat raw k⟩

/-! ### A read and the host's side (R43, R47) -/

/-- What the host reads does not depend on the host's own side. -/
@[simp] theorem State.withHost_readWord (s : State) (ms : List HostMove) (ws : List Word) (a : Addr) :
    (s.withHost ms ws).readWord a = s.readWord a := by
  unfold State.readWord
  cases target a <;> rfl

/-- A step that reads changes the host's side only. -/
theorem step_read {s : State} {a : Addr} {rest : List HostMove} (h : s.script = .read a :: rest) :
    step s = .next (s.withHost rest (s.readWord a :: s.reads)) := by
  rw [step_move s _ rest h, ← s.withHost_readWord rest s.reads a]
  rfl

/-- Settles O9: a read is a change of the host's side, on which no register and no later read depends. -/
theorem readsHaveNoSideEffect : Obligations.ReadsHaveNoSideEffect := fun s _ rest h =>
  ⟨_, step_read h, rfl, rfl, rfl, rfl, rfl, rfl, rfl, rfl, rfl, s.withHost_palAt rest _, s.withHost_readWord rest _⟩

/-- Settles O10, from the rules for reading and for writing a reserved address. -/
theorem reservedAddressesReadZeroAndIgnoreWrites : Obligations.ReservedAddressesReadZeroAndIgnoreWrites := by
  intro s a v h h'
  constructor
  · rw [perform, readWord_reserved s h (lt_palette_of_le_reserved h'), State.pushRead]
  · exact writeWord_reserved v s h h'

/-! ### Every transfer is answered (R41) -/

theorem exec_answers_next (i : Instr) (s : State) : ∃ t, exec i s = .next t := by
  obtain ⟨t, ht, -⟩ := exec_withHost i s s.script s.reads
  exact ⟨t, ht⟩

theorem perform_answers_next (m : HostMove) (s : State) : ∃ t, perform m s = .next t := by
  obtain ⟨q, hq⟩ := perform_pcu m s.toPcu
  exact ⟨_, hq s.script s.reads⟩

theorem step_answers_next (s : State) : ∃ t, step s = .next t := by
  cases hs : s.script with
  | nil => exact ⟨s, step_idle s hs⟩
  | cons m rest =>
    rw [step_move s m rest hs]
    exact perform_answers_next m _

/-- Settles O16: every host move is answered, and an idle step is too. -/
theorem everyStepAnswersANextState : Obligations.EveryStepAnswersANextState :=
  ⟨step_answers_next, exec_answers_next, step_answers_next⟩

end Sys2Proof.Machine

/-! ## Encoding family: the decoder and the encoder are inverse, the illegal words, the assembler, and the frames of the
commands (spec/30_encoding.md) -/

namespace Sys2Proof.Machine

open Sys2Proof.Spec

/-! ### Decoding an encoded command (R61 to R67) -/

/-- An encoded command holds its opcode in bits 3:0 and zero in bits 7:4. -/
theorem encode_opField_lowReserved (i : Instr) : opField (encode i) = i.op ∧ lowReserved (encode i) = 0 := by
  cases i with
  | nop => exact Laws.EncodeOp.nop
  | rescale value fromW toW => exact Laws.EncodeOp.rescale value fromW toW
  | pack w => exact Laws.EncodeOp.pack w
  | unpack w => exact Laws.EncodeOp.unpack w
  | encode w => exact Laws.EncodeOp.encode w
  | decode w => exact Laws.EncodeOp.decode w
  | luma => exact Laws.EncodeOp.luma
  | setPlen n => exact Laws.EncodeOp.setPlen n
  | classify => exact Laws.EncodeOp.classify
  | matchColor => exact Laws.EncodeOp.matchColor
  | lookup => exact Laws.EncodeOp.lookup
  | clrErr => exact Laws.EncodeOp.clrErr

theorem decodeN_encodeN (op : BitVec 4) (i : Instr) : decodeN (encodeN op) i = some i := by
  have hop := op.isLt
  rw [decodeN, if_pos]
  rw [reservedN_zero_iff, encodeN_toNat]
  omega

theorem decodeR_encodeR {value : Byte} {fromW toW : Width} (h : (Instr.rescale value fromW toW).wellFormed = true) :
    decodeR (encodeR value fromW toW) = some (.rescale value fromW toW) := by
  have e := encodeR_toNat value fromW toW
  have hv := value.isLt; have hf := fromW.isLt; have ht := toW.isLt
  have hreserved : reservedRW (encodeR value fromW toW) = 0 := by rw [reservedRW_zero_iff, e]; omega
  have hvalue : valueField (encodeR value fromW toW) = value := by
    apply BitVec.eq_of_toNat_eq; rw [valueField, field_toNat, e]; omega
  have hfrom : fromField (encodeR value fromW toW) = fromW := by
    apply BitVec.eq_of_toNat_eq; rw [fromField, field_toNat, e]; omega
  have hto : toField (encodeR value fromW toW) = toW := by
    apply BitVec.eq_of_toNat_eq; rw [toField, field_toNat, e]; omega
  rw [decodeR, if_pos hreserved, hvalue, hfrom, hto]
  exact if_pos h

theorem decodeW_encodeW {w : Widths} (h : w.ok = true) (op : BitVec 4) (mk : Widths → Instr) :
    decodeW (encodeW w op) mk = some (mk w) := by
  rw [decodeW, if_pos (reservedRW_encodeW w op), widthsField_encodeW, if_pos h]

theorem decodeP_encodeP {n : BitVec 9} (h : n ≤ 256) : decodeP (encodeP n) = some (.setPlen n) := by
  have e := encodeP_toNat n
  have hn := n.isLt
  have hreserved : reservedP (encodeP n) = 0 := by rw [reservedP_zero_iff, e]; omega
  have hlength : lengthField (encodeP n) = n := by
    apply BitVec.eq_of_toNat_eq; rw [lengthField, field_toNat, e]; omega
  rw [decodeP, if_pos hreserved, hlength, if_pos h]

/-- Settles O1: the opcode map picks the command's format, whose decoder reads the immediates back. -/
theorem decodeInvertsEncode : Obligations.DecodeInvertsEncode := by
  intro i h
  obtain ⟨hop, hlow⟩ := encode_opField_lowReserved i
  rw [decode, if_pos hlow, decodeOp, hop]
  cases i with
  | nop => exact decodeN_encodeN 0 .nop
  | rescale value fromW toW => exact decodeR_encodeR h
  | pack w => exact decodeW_encodeW h 2 .pack
  | unpack w => exact decodeW_encodeW h 3 .unpack
  | encode w => exact decodeW_encodeW h 4 .encode
  | decode w => exact decodeW_encodeW h 5 .decode
  | luma => exact decodeN_encodeN 6 .luma
  | setPlen n => exact decodeP_encodeP (of_decide_eq_true h)
  | classify => exact decodeN_encodeN 8 .classify
  | matchColor => exact decodeN_encodeN 9 .matchColor
  | lookup => exact decodeN_encodeN 10 .lookup
  | clrErr => exact decodeN_encodeN 11 .clrErr

/-! ### Encoding a decoded command (R67, R69): a word with its reserved bits zero is the concatenation of its fields -/

theorem encodeN_fields {w : Word} (hlow : lowReserved w = 0) (h : reservedN w = 0) : encodeN (opField w) = w := by
  rw [lowReserved_zero_iff] at hlow
  rw [reservedN_zero_iff] at h
  apply BitVec.eq_of_toNat_eq
  rw [encodeN_toNat, opField_toNat]
  omega

theorem encodeR_fields {w : Word} (hop : opField w = 1) (hlow : lowReserved w = 0) (h : reservedRW w = 0) :
    encodeR (valueField w) (fromField w) (toField w) = w := by
  have hop' : w.toNat % 16 = 1 := by rw [← opField_toNat, hop]; rfl
  rw [lowReserved_zero_iff] at hlow
  rw [reservedRW_zero_iff] at h
  apply BitVec.eq_of_toNat_eq
  rw [encodeR_toNat, valueField, fromField, toField, field_toNat, field_toNat, field_toNat]
  omega

theorem encodeW_fields {w : Word} (hlow : lowReserved w = 0) (h : reservedRW w = 0) :
    encodeW (widthsField w) (opField w) = w := by
  rw [lowReserved_zero_iff] at hlow
  rw [reservedRW_zero_iff] at h
  apply BitVec.eq_of_toNat_eq
  simp only [encodeW_toNat, widthsField, field_toNat, opField_toNat]
  omega

theorem encodeP_fields {w : Word} (hop : opField w = 7) (hlow : lowReserved w = 0) (h : reservedP w = 0) :
    encodeP (lengthField w) = w := by
  have hop' : w.toNat % 16 = 7 := by rw [← opField_toNat, hop]; rfl
  rw [lowReserved_zero_iff] at hlow
  rw [reservedP_zero_iff] at h
  apply BitVec.eq_of_toNat_eq
  rw [encodeP_toNat, lengthField, field_toNat]
  omega

/-- A word that decodes is the word of its command. -/
theorem encode_of_decode {w : Word} {i : Instr} (h : decode w = some i) : encode i = w := by
  obtain ⟨hlow, h⟩ := Option.ite_none_right_eq_some.1 h
  have formatN : ∀ (op : BitVec 4) (j : Instr), opField w = op → encode j = encodeN op → decodeN w j = some i →
      encode i = w := by
    rintro _ j rfl hj hd
    rw [eq_of_decodeN hd, hj, encodeN_fields hlow (Option.ite_none_right_eq_some.1 hd).1]
  have formatW : ∀ (op : BitVec 4) (mk : Widths → Instr), opField w = op → (∀ x, encode (mk x) = encodeW x op) →
      decodeW w mk = some i → encode i = w := by
    rintro _ mk rfl hmk hd
    rw [(eq_of_decodeW hd).2, hmk, encodeW_fields hlow (Option.ite_none_right_eq_some.1 hd).1]
  unfold decodeOp at h
  split at h <;> rename_i hop
  case h_1 => exact formatN 0 .nop (BitVec.eq_of_toNat_eq hop) rfl h
  case h_2 =>
    rw [(eq_of_decodeR h).2]
    exact encodeR_fields (BitVec.eq_of_toNat_eq hop) hlow (Option.ite_none_right_eq_some.1 h).1
  case h_3 => exact formatW 2 .pack (BitVec.eq_of_toNat_eq hop) (fun _ => rfl) h
  case h_4 => exact formatW 3 .unpack (BitVec.eq_of_toNat_eq hop) (fun _ => rfl) h
  case h_5 => exact formatW 4 .encode (BitVec.eq_of_toNat_eq hop) (fun _ => rfl) h
  case h_6 => exact formatW 5 .decode (BitVec.eq_of_toNat_eq hop) (fun _ => rfl) h
  case h_7 => exact formatN 6 .luma (BitVec.eq_of_toNat_eq hop) rfl h
  case h_8 =>
    rw [(eq_of_decodeP h).2]
    exact encodeP_fields (BitVec.eq_of_toNat_eq hop) hlow (Option.ite_none_right_eq_some.1 h).1
  case h_9 => exact formatN 8 .classify (BitVec.eq_of_toNat_eq hop) rfl h
  case h_10 => exact formatN 9 .matchColor (BitVec.eq_of_toNat_eq hop) rfl h
  case h_11 => exact formatN 10 .lookup (BitVec.eq_of_toNat_eq hop) rfl h
  case h_12 => exact formatN 11 .clrErr (BitVec.eq_of_toNat_eq hop) rfl h
  case h_13 => cases h

/-- Settles O2: the decoder checks the ranges, and the fields it reads are all of the word. -/
theorem decodedCommandReencodesToItsWord : Obligations.DecodedCommandReencodesToItsWord :=
  fun _ _ h => ⟨decode_wellFormed h, encode_of_decode h⟩

/-- The words that decode to a command: its encoding when its immediates are in range, none else. -/
theorem decode_eq_some_iff (w : Word) (i : Instr) : decode w = some i ↔ i.wellFormed = true ∧ w = encode i :=
  ⟨fun h => ⟨decode_wellFormed h, (encode_of_decode h).symm⟩, fun ⟨hi, hw⟩ => hw ▸ decodeInvertsEncode i hi⟩

/-- Settles O4: each word is the encoding of the command named; the three others fail a check of R67. -/
theorem wordsOfTheSpecDecodeAsWritten : Obligations.WordsOfTheSpecDecodeAsWritten := by
  simp only [Obligations.WordsOfTheSpecDecodeAsWritten, decode_eq_some_iff]
  decide

/-! ### The illegal words (R68) -/

theorem decodeN_none_iff (w : Word) (i : Instr) : decodeN w i = none ↔ w.toNat / 2 ^ 8 ≠ 0 := by
  simp only [decodeN, ite_eq_right_iff, reduceCtorEq, imp_false, reservedN_zero_iff, ne_eq]

theorem decodeR_none_iff (w : Word) : decodeR w = none ↔
    w.toNat / 2 ^ 24 ≠ 0 ∨ 8 < w.toNat / 2 ^ 8 % 16 ∨ 8 < w.toNat / 2 ^ 12 % 16 := by
  simp only [decodeR, ite_eq_right_iff, reduceCtorEq, imp_false, reservedRW_zero_iff, Bool.and_eq_true, Width.ok_iff,
    fromField, toField, field_toNat]
  omega

theorem decodeW_none_iff (w : Word) (mk : Widths → Instr) : decodeW w mk = none ↔
    w.toNat / 2 ^ 24 ≠ 0 ∨ 8 < w.toNat / 2 ^ 8 % 16 ∨ 8 < w.toNat / 2 ^ 12 % 16 ∨ 8 < w.toNat / 2 ^ 16 % 16 ∨
      8 < w.toNat / 2 ^ 20 % 16 := by
  simp only [decodeW, ite_eq_right_iff, reduceCtorEq, imp_false, reservedRW_zero_iff, Widths.ok_iff, widthsField,
    field_toNat]
  omega

theorem decodeP_none_iff (w : Word) : decodeP w = none ↔ w.toNat / 2 ^ 17 ≠ 0 ∨ 256 < w.toNat / 2 ^ 8 % 512 := by
  simp only [decodeP, ite_eq_right_iff, reduceCtorEq, imp_false, reservedP_zero_iff, BitVec.le_def, lengthField,
    field_toNat, BitVec.reduceToNat]
  omega

/-- The words with no decoding are R68's list: bits 7:4, then opcode by opcode what its format refuses. -/
theorem decode_none_iff_illegal (w : Word) : decode w = none ↔ Illegal w := by
  by_cases hlow : w.toNat / 16 % 16 = 0
  · rw [decode, if_pos ((lowReserved_zero_iff w).2 hlow), decodeOp, opField_toNat]
    split
    case h_13 =>
      refine iff_of_true rfl (.inr (.inl ?_))
      simp only [imp_false] at *
      omega
    all_goals
      rename_i hop
      simp [Illegal, hlow, hop, decodeN_none_iff, decodeR_none_iff, decodeW_none_iff, decodeP_none_iff]
  · exact iff_of_true (if_neg (mt (lowReserved_zero_iff w).1 hlow)) (.inl hlow)

/-- Settles O3: the list by the formats' own, the effect by raising IllegalCommand. -/
theorem illegalWordsAreTheListedOnesAndRaise : Obligations.IllegalWordsAreTheListedOnesAndRaise := by
  intro w
  refine ⟨decode_none_iff_illegal w, fun s h => ?_⟩
  refine ⟨s.raise .illegalCommand, execWord_illegal s ((decode_none_iff_illegal w).2 h),
    ⟨rfl, rfl, rfl, rfl, rfl, fun _ => rfl, rfl, rfl, rfl⟩, rfl, ?_⟩
  rw [readWord_status, Status.word_toNat, State.raise_last, code]
  omega

/-! ### The assembler (R70, R71) -/

theorem encodeW_eq_wordW (w : Widths) (op : BitVec 4) : encodeW w op = wordW w op.toNat := by
  rw [wordW, ← encodeW_toNat, BitVec.ofNat_toNat, BitVec.setWidth_eq]

/-- Shifted fields put together as R70 writes them: an or of disjoint fields is their sum. -/
theorem encodeR_toNat_or (value : Byte) (fromW toW : Width) : (encodeR value fromW toW).toNat =
    (value.toNat <<< 16) ||| (toW.toNat <<< 12) ||| (fromW.toNat <<< 8) ||| 1 := by
  rw [encodeR_toNat]
  exact (fields_or_eq_sum (wr := 4) (wg := 4) (wb := 8) toW.isLt fromW.isLt (by omega)).symm

theorem encodeP_toNat_or (n : BitVec 9) : (encodeP n).toNat = (n.toNat <<< 8) ||| 7 := by
  rw [encodeP_toNat, ← Nat.shiftLeft_add_eq_or_of_lt (by omega), Nat.shiftLeft_eq]

theorem assemble_command_legal {i : Instr} (h : i.wellFormed = true) :
    assemble (.command i) = some (.write 0 (encode i)) := if_pos h

theorem assemble_command_illegal {i : Instr} (h : i.wellFormed = false) : assemble (.command i) = none :=
  if_neg (by rw [h]; exact Bool.false_ne_true)

theorem widths_ok_iff_legal (w : Widths) : w.ok = true ↔ Legal w := Widths.ok_iff w

theorem wellFormed_widthOp (op : WidthOp) (w : Widths) : (op.instr w).wellFormed = w.ok := by cases op <;> rfl

theorem encode_widthOp (op : WidthOp) (w : Widths) : encode (op.instr w) = wordW w (opOf op) := by
  cases op with
  | pack => exact encodeW_eq_wordW w 2
  | unpack => exact encodeW_eq_wordW w 3
  | encode => exact encodeW_eq_wordW w 4
  | decode => exact encodeW_eq_wordW w 5

/-- A pseudo-instruction is its command with the layout's widths. -/
theorem assemble_layoutOp (op : WidthOp) (l : Layout) :
    assemble (.layoutOp op l) = assemble (.command (op.instr l.widths)) := rfl

theorem assemble_layoutOp_legal (op : WidthOp) (l : Layout) (h : Legal l.widths) :
    assemble (.layoutOp op l) = some (.write 0 (wordW l.widths (opOf op))) := by
  have hok := (widths_ok_iff_legal _).2 h
  rw [assemble_layoutOp, assemble_command_legal (by rw [wellFormed_widthOp, hok]), encode_widthOp]

theorem assemble_layoutOp_illegal (op : WidthOp) (l : Layout) (h : ¬Legal l.widths) :
    assemble (.layoutOp op l) = none := by
  have hok := Bool.eq_false_iff.2 (mt (widths_ok_iff_legal _).1 h)
  rw [assemble_layoutOp, assemble_command_illegal (by rw [wellFormed_widthOp, hok])]

/-- The address of a palette entry's name (R42, R70). -/
theorem palName_addr_toNat (i : Byte) : (RegName.pal i).addr.toNat = 256 + i.toNat := by
  have hor := Nat.shiftLeft_add_eq_or_of_lt i.isLt 1
  rw [RegName.addr, BitVec.toNat_or, BitVec.toNat_setWidth_of_le (by omega)]
  exact hor.symm

/-- Settles O5: the mnemonics by the formats' words, the pseudo-instructions by their commands, the WR and RD lines by the
names' addresses. -/
theorem assembledWordsFollowTheTable : Obligations.AssembledWordsFollowTheTable := by
  have layouts (op : WidthOp) (l : Layout) := assemble_layoutOp_legal op l
  refine ⟨by decide, encodeR_toNat_or,
    fun w => ⟨encode_widthOp .pack w, encode_widthOp .unpack w, encode_widthOp .encode w, encode_widthOp .decode w⟩,
    encodeP_toNat_or, fun i => assemble_command_legal, fun i => assemble_command_illegal,
    fun op => ⟨layouts op .r5g6b5 (by decide), layouts op .a1r5g5b5 (by decide), layouts op .a4r4g4b4 (by decide),
      fun d1 d2 d3 d4 => ⟨layouts op (.digits d1 d2 d3 d4), assemble_layoutOp_illegal op (.digits d1 d2 d3 d4)⟩⟩,
    layouts .encode .r5g6b5 (by decide), layouts .encode .a1r5g5b5 (by decide), layouts .encode .a4r4g4b4 (by decide),
    layouts .decode (.digits 8 8 8 8) (by decide), layouts .encode (.digits 8 0 0 0) (by decide),
    layouts .decode (.digits 0 8 8 8) (by decide), ?_,
    fun i v => ⟨_, palName_addr_toNat i, rfl, rfl, rfl⟩,
    fun a r g b => ⟨_, colorFieldsAreItsFourBytes.2 ⟨a, r, g, b⟩, rfl⟩⟩
  have haddr : ∀ p ∈ [(RegName.cmd, (0 : Addr)), (.status, 1), (.color, 2), (.raw, 3), (.val, 4), (.plen, 5),
      (.pclass, 6), (.id, 7)], p.1.addr = p.2 := by decide
  intro p hp
  rw [← haddr p hp]
  exact ⟨rfl, fun v => rfl⟩

/-! ### A word written to CMD (R60, R72) -/

/-- A step whose next move writes a word to CMD executes the word. -/
theorem step_writeCmd {s : State} {w : Word} {rest : List HostMove} (h : s.script = .write 0 w :: rest) :
    step s = execWord w (s.setScript rest) := by
  rw [step_move s _ rest h, perform, writeWord_cmd]

/-- Settles O6, from what a word at CMD does. -/
theorem stepRunsDecodedCommand : Obligations.StepRunsDecodedCommand := by
  refine ⟨fun s w i rest hs hd => ?_, fun s w rest hs hd => ?_, fun s i w hd => ?_⟩
  · rw [step_writeCmd hs, execWord_legal _ hd]
    rfl
  · rw [step_writeCmd hs, execWord_illegal _ hd, raise_eq_raised]
    rfl
  · rw [step_writeCmd (s := s.withFetchWord 32 w) rfl, execWord_legal _ hd]
    rfl

/-! ### FIRST (R72, R143) -/

theorem firstRule_raise (s : State) (e : CmdError) : FirstRule s (s.raise e) := by
  rw [raise_eq_raised]
  exact ⟨fun hok => StatusCode.noConfusion hok, fun _ => rfl⟩

theorem firstRule_complete {s u : State} (h : u.status.first = s.status.first) : FirstRule s u.complete :=
  ⟨fun _ => h, fun hne => absurd rfl hne⟩

/-- Every command but CLRERR follows the rule of FIRST. -/
theorem exec_firstRule {i : Instr} {s t : State} (hi : i ≠ .clrErr) (h : exec i s = .next t) : FirstRule s t := by
  rcases exec_cases i s with ⟨e, h'⟩ | ⟨v, h'⟩ | ⟨v, h'⟩ | ⟨v, h'⟩ | ⟨n, -, -, h'⟩ | ⟨-, -, h'⟩ | ⟨-, h'⟩ | ⟨hc, -⟩
  case inl => rw [h'] at h; cases h; exact firstRule_raise s e
  case inr.inr.inr.inr.inr.inr.inr => exact absurd hc hi
  all_goals rw [h'] at h; cases h; exact firstRule_complete rfl

/-- Settles O19: CLRERR clears FIRST, and every other command follows the rule of FIRST. -/
theorem completedCommandKeepsFirst : Obligations.CompletedCommandKeepsFirst := by
  intro i s t h hok
  by_cases hi : i = .clrErr
  · subst hi
    cases h
    rfl
  · rw [if_neg hi]
    exact (exec_firstRule hi h).1 hok

/-! ### Frames (R66, R72, R143) -/

/-- A command whose immediates are checked fails on the state as it was, or completes with its writes. -/
theorem runCommand_ifLegal_cases {s t u : State} {i : Instr} (h : runCommand s (ifLegal i u) = .next t) :
    (∃ e, t = s.raise e) ∨ t = u.complete := by
  cases hi : i.wellFormed with
  | true => rw [ifLegal_true u hi] at h; cases h; exact .inr rfl
  | false => rw [ifLegal_false u hi] at h; cases h; exact .inl ⟨_, rfl⟩

/-- What MATCH can do (R119). -/
theorem exec_match_cases {s t : State} (h : exec .matchColor s = .next t) :
    (∃ e, t = s.raise e) ∨ ∃ v, t = (s.setRaw v).complete := by
  by_cases hp : s.plen = 0
  · rw [exec_match_empty hp] at h; cases h; exact .inl ⟨_, rfl⟩
  · cases hn : nearest s.color s.palette with
    | none => rw [exec_match_none hp hn] at h; cases h; exact .inl ⟨_, rfl⟩
    | some best => rw [exec_match_some hp hn] at h; cases h; exact .inr ⟨_, rfl⟩

/-- What CLASSIFY can do (R114). -/
theorem exec_classify_cases {s t : State} (h : exec .classify s = .next t) :
    (∃ e, t = s.raise e) ∨ ∃ p, t = (s.setPclass p).complete := by
  by_cases hp : s.plen = 0
  · rw [exec_classify_empty hp] at h; cases h; exact .inl ⟨_, rfl⟩
  · rw [exec_classify_some hp] at h; cases h; exact .inr ⟨_, rfl⟩

/-- PACK, ENCODE and MATCH fail, or complete after writing RAW. -/
theorem exec_rawWriter_cases {i : Instr} {s t : State} (hi : i = .matchColor ∨ ∃ w, i = .pack w ∨ i = .encode w)
    (h : exec i s = .next t) : (∃ e, t = s.raise e) ∨ ∃ v, t = (s.setRaw v).complete := by
  rcases hi with rfl | ⟨w, rfl | rfl⟩
  · exact exec_match_cases h
  · exact (runCommand_ifLegal_cases h).imp_right (⟨_, ·⟩)
  · exact (runCommand_ifLegal_cases h).imp_right (⟨_, ·⟩)

/-- UNPACK, DECODE and LOOKUP fail, or complete after writing COLOR. -/
theorem exec_colorWriter_cases {i : Instr} {s t : State} (hi : i = .lookup ∨ ∃ w, i = .unpack w ∨ i = .decode w)
    (h : exec i s = .next t) : (∃ e, t = s.raise e) ∨ ∃ v, t = (s.setColor v).complete := by
  rcases hi with rfl | ⟨w, rfl | rfl⟩
  · cases h; exact .inr ⟨_, rfl⟩
  · exact (runCommand_ifLegal_cases h).imp_right (⟨_, ·⟩)
  · exact (runCommand_ifLegal_cases h).imp_right (⟨_, ·⟩)

/-- RESCALE and LUMA fail, or complete after writing VAL. -/
theorem exec_valWriter_cases {i : Instr} {s t : State} (hi : i = .luma ∨ ∃ v f w, i = .rescale v f w)
    (h : exec i s = .next t) : (∃ e, t = s.raise e) ∨ ∃ v, t = (s.setVal v).complete := by
  rcases hi with rfl | ⟨v, f, w, rfl⟩
  · cases h; exact .inr ⟨_, rfl⟩
  · exact (runCommand_ifLegal_cases h).imp_right (⟨_, ·⟩)

/-- SETPLEN and CLASSIFY fail, or complete after writing PLEN and PCLASS, CLASSIFY leaving PLEN as it was. -/
theorem exec_paletteControl_cases {i : Instr} {s t : State} (hi : i = .classify ∨ ∃ n, i = .setPlen n)
    (h : exec i s = .next t) : (∃ e, t = s.raise e) ∨
      ∃ n p, (i = .classify → n = s.plen) ∧ t = ((s.setPlen n).setPclass p).complete := by
  rcases hi with rfl | ⟨n, rfl⟩
  · exact (exec_classify_cases h).imp_right fun ⟨p, hp⟩ => ⟨s.plen, p, fun _ => rfl, hp⟩
  · exact (runCommand_ifLegal_cases h).imp_right (⟨n, _, Instr.noConfusion, ·⟩)

/-- Settles O48: a failure writes STATUS alone, a completion RAW as well. -/
theorem rawWritersFrame : Obligations.RawWritersFrame := by
  intro i s t hi h
  rcases exec_rawWriter_cases hi h with ⟨e, rfl⟩ | ⟨v, rfl⟩
  · exact ⟨rfl, rfl, rfl, rfl, s.raise_palAt e, ⟨rfl, rfl, rfl⟩, firstRule_raise s e, fun _ => rfl⟩
  · exact ⟨rfl, rfl, rfl, rfl, fun _ => rfl, ⟨rfl, rfl, rfl⟩, firstRule_complete rfl, fun hf => absurd rfl hf⟩

/-- Settles O49: a failure writes STATUS alone, a completion COLOR as well. -/
theorem colorWritersFrame : Obligations.ColorWritersFrame := by
  intro i s t hi h
  rcases exec_colorWriter_cases hi h with ⟨e, rfl⟩ | ⟨v, rfl⟩
  · exact ⟨rfl, rfl, rfl, rfl, s.raise_palAt e, ⟨rfl, rfl, rfl⟩, firstRule_raise s e, fun _ => rfl⟩
  · exact ⟨rfl, rfl, rfl, rfl, fun _ => rfl, ⟨rfl, rfl, rfl⟩, firstRule_complete rfl, fun hf => absurd rfl hf⟩

/-- Settles O50: a failure writes STATUS alone, a completion VAL as well. -/
theorem valWritersFrame : Obligations.ValWritersFrame := by
  intro i s t hi h
  rcases exec_valWriter_cases hi h with ⟨e, rfl⟩ | ⟨v, rfl⟩
  · exact ⟨rfl, rfl, rfl, rfl, s.raise_palAt e, ⟨rfl, rfl, rfl⟩, firstRule_raise s e, fun _ => rfl⟩
  · exact ⟨rfl, rfl, rfl, rfl, fun _ => rfl, ⟨rfl, rfl, rfl⟩, firstRule_complete rfl, fun hf => absurd rfl hf⟩

/-- Settles O51: a failure writes STATUS alone; a completed CLASSIFY writes PCLASS, a completed SETPLEN PLEN as well. -/
theorem paletteControlFrame : Obligations.PaletteControlFrame := by
  intro i s t hi h
  rcases exec_paletteControl_cases hi h with ⟨e, rfl⟩ | ⟨n, p, hn, rfl⟩
  · exact ⟨rfl, rfl, rfl, s.raise_palAt e, ⟨rfl, rfl, rfl⟩, firstRule_raise s e, fun _ => rfl, fun _ => ⟨rfl, rfl⟩⟩
  · exact ⟨rfl, rfl, rfl, fun _ => rfl, ⟨rfl, rfl, rfl⟩, firstRule_complete rfl, hn, fun hf => absurd rfl hf⟩

end Sys2Proof.Machine

/-! ## Channel conversion family: rescale, the fields of a packed container, and the commands made of them
(spec/40_channel_conversion.md) -/

namespace Sys2Proof.Machine

open Sys2Proof.Spec

/-! ### The rounded quotient (R80, R81) -/

theorem ones_odd {n : Nat} (hn : 0 < n) : ones n % 2 = 1 := by
  obtain ⟨k, rfl⟩ : ∃ k, n = k + 1 := ⟨n - 1, by omega⟩
  have hk := Nat.two_pow_pos k
  rw [ones, Nat.pow_succ]
  omega

theorem ones_mono {m n : Nat} (h : m ≤ n) : ones m ≤ ones n :=
  Nat.sub_le_sub_right (Nat.pow_le_pow_right (by decide) h) 1

/-- Rounding by an odd divisor: the quotient is the one integer less than half a divisor away, a tie being impossible. -/
theorem roundedQuotient_eq_iff {x d q : Nat} (hd : d % 2 = 1) :
    (x + d / 2) / d = q ↔ 2 * (q * d) < 2 * x + d ∧ 2 * x < 2 * (q * d) + d := by
  rw [Nat.div_eq_iff (by omega)]
  omega

/-- The rounded quotient is the nearest integer (R81 (d)). -/
theorem scale_nearest (v t : Nat) {f : Nat} (hf : 0 < f) :
    2 * (scale v f t * ones f) < 2 * (v * ones t) + ones f ∧ 2 * (v * ones t) < 2 * (scale v f t * ones f) + ones f :=
  (roundedQuotient_eq_iff (ones_odd hf)).1 rfl

/-- To a width no smaller and back: the two rounding errors together stay below half a step (R81 (a)). -/
theorem scale_scale (v : Nat) {n m : Nat} (hn : 0 < n) (hnm : n ≤ m) : scale (scale v n m) m n = v := by
  have hnear := scale_nearest v m hn
  have hmono := ones_mono hnm
  exact (roundedQuotient_eq_iff (ones_odd (by omega))).2 ⟨by omega, by omega⟩

theorem width_pos {w : Width} (h : w ≠ 0) : 0 < w.toNat :=
  Nat.pos_of_ne_zero fun h0 => h (BitVec.eq_of_toNat_eq h0)

theorem width_ne_zero {w : Width} (h : 1 ≤ w) : w ≠ 0 := by
  rintro rfl
  exact absurd h (by decide)

/-- On R80's domain the rounded quotient fits 8 bits, so `rescale` is that quotient. -/
theorem rescale_toNat {v : Byte} {f t : Width} (hf : f ≠ 0) (ht : t ≠ 0) (ht8 : t ≤ 8) (hv : v.toNat ≤ ones f.toNat) :
    (rescale v f t).toNat = scale v.toNat f.toNat t.toNat := by
  have hfit := (scale_le (t := t.toNat) (width_pos hf) hv).trans (ones_le ht8)
  rw [rescale, if_neg (not_or.2 ⟨hf, ht⟩), BitVec.toNat_ofNat, Nat.mod_eq_of_lt (by omega)]

/-- The result stays within the target width (R81 (c)). -/
theorem rescale_le {v : Byte} {f t : Width} (hf : f ≠ 0) (ht : t ≠ 0) (ht8 : t ≤ 8) (hv : v.toNat ≤ ones f.toNat) :
    (rescale v f t).toNat ≤ ones t.toNat :=
  rescale_toNat hf ht ht8 hv ▸ scale_le (width_pos hf) hv

theorem rescale_zero {f t : Width} (hf : f ≠ 0) (ht : t ≠ 0) (ht8 : t ≤ 8) : rescale 0 f t = 0 :=
  BitVec.eq_of_toNat_eq ((rescale_toNat hf ht ht8 (Nat.zero_le _)).trans (scale_zero (width_pos hf)))

/-- Full scale gives full scale (R81 (c)). -/
theorem rescale_ones {f t : Width} (hf : f ≠ 0) (hf8 : f ≤ 8) (ht : t ≠ 0) (ht8 : t ≤ 8) :
    (rescale (BitVec.ofNat 8 (ones f.toNat)) f t).toNat = ones t.toNat := by
  have hones : (BitVec.ofNat 8 (ones f.toNat)).toNat = ones f.toNat :=
    Nat.mod_eq_of_lt (Nat.lt_succ_of_le (ones_le hf8))
  rw [rescale_toNat hf ht ht8 hones.le, hones, scale_ones (width_pos hf)]

/-- Equal widths: the value itself (R81 (e)). -/
theorem rescale_self {v : Byte} {n : Width} (hn : n ≠ 0) (hn8 : n ≤ 8) (hv : v.toNat ≤ ones n.toNat) :
    rescale v n n = v :=
  BitVec.eq_of_toNat_eq ((rescale_toNat hn hn hn8 hv).trans (scale_self (width_pos hn)))

/-- To a width no smaller and back (R81 (a)). -/
theorem rescale_rescale {v : Byte} {n m : Width} (hn : n ≠ 0) (hnm : n ≤ m) (hm8 : m ≤ 8) (hv : v.toNat ≤ ones n.toNat) :
    rescale (rescale v n m) m n = v := by
  have hm : m ≠ 0 := by
    rintro rfl
    exact hn (BitVec.le_zero_iff.1 hnm)
  apply BitVec.eq_of_toNat_eq
  rw [rescale_toNat hm hn (BitVec.le_trans hnm hm8) (rescale_le hn hm hm8 hv), rescale_toNat hn hm hm8 hv,
    scale_scale _ (width_pos hn) hnm]

/-- Monotone, for an absent channel too (R81 (f)). -/
theorem rescale_mono {u v : Byte} {f t : Width} (ht8 : t ≤ 8) (hv : v.toNat ≤ ones f.toNat) (h : u ≤ v) :
    rescale u f t ≤ rescale v f t := by
  by_cases habsent : f = 0 ∨ t = 0
  · rw [rescale_absent habsent, rescale_absent habsent]
    exact BitVec.le_refl _
  · obtain ⟨hf, ht⟩ := not_or.1 habsent
    rw [BitVec.le_def] at h ⊢
    rw [rescale_toNat hf ht ht8 (h.trans hv), rescale_toNat hf ht ht8 hv]
    exact scale_mono h

/-- Settles O23: an absent channel by definition, the quotient because it fits 8 bits. -/
theorem rescaleIsTheRoundedQuotient : Obligations.RescaleIsTheRoundedQuotient :=
  fun _ _ _ _ ht8 => ⟨rescale_absent, fun hf ht hv => rescale_toNat hf ht ht8 hv⟩

/-- Settles O24, property by property. -/
theorem rescaleRoundTripRangeAndOrder : Obligations.RescaleRoundTripRangeAndOrder := by
  refine ⟨fun n v hn hn8 hv => rescale_rescale (width_ne_zero hn) hn8 (BitVec.le_refl _) hv, ?_, ?_,
    fun n v hn hn8 hv => rescale_self (width_ne_zero hn) hn8 hv, fun f t v₁ v₂ _ ht8 hv h => rescale_mono ht8 hv h,
    fun n m v hn hnm hm8 hv => rescale_rescale (width_ne_zero hn) hnm hm8 hv⟩
  · intro f t v hf1 hf8 ht1 ht8 hv
    have hf := width_ne_zero hf1
    have ht := width_ne_zero ht1
    have hodd : (2 ^ f.toNat - 1) % 2 = 1 := ones_odd (width_pos hf)
    refine ⟨rescale_le hf ht ht8 hv, rescale_zero hf ht ht8, rescale_ones hf hf8 ht ht8, by omega, ?_⟩
    rw [rescale_toNat hf ht ht8 hv]
    exact scale_nearest _ _ (width_pos hf)
  · intro f t v _ ht8 habsent
    have hones := ones_le ht8
    rw [rescale_absent habsent]
    refine ⟨rfl, ?_⟩
    change ones 8 &&& ones t.toNat = ones t.toNat
    rw [Nat.and_comm, and_ones, Nat.mod_eq_of_lt (by omega)]

/-! ### The fields of a packed container (R84, R87) -/

theorem join_lt {x y m k : Nat} (hx : x < 2 ^ m) (hy : y < 2 ^ k) : x * 2 ^ k + y < 2 ^ (m + k) := by
  rw [Nat.pow_add]
  have := Nat.mul_le_mul_right (2 ^ k) (Nat.succ_le_of_lt hx)
  rw [Nat.succ_mul] at this
  omega

theorem join_div (x : Nat) {y k : Nat} (hy : y < 2 ^ k) : (x * 2 ^ k + y) / 2 ^ k = x := by
  rw [Nat.mul_comm, Nat.mul_add_div (Nat.two_pow_pos k), Nat.div_eq_of_lt hy, Nat.add_zero]

theorem div_two_pow_add (x m k : Nat) : x / 2 ^ (m + k) = x / 2 ^ k / 2 ^ m := by
  rw [Nat.div_div_eq_div_mul, ← Nat.pow_add, Nat.add_comm]

/-- A field is determined by the number's remainder above the field. -/
theorem field_eq_of_mod_eq {x y n k m : Nat} (h : x % 2 ^ n = y % 2 ^ n) (hn : k + m ≤ n) :
    x / 2 ^ k % 2 ^ m = y / 2 ^ k % 2 ^ m := by
  have hdvd := Nat.pow_dvd_pow 2 hn
  rw [← Nat.mod_mul_right_div_self, ← Nat.mod_mul_right_div_self, ← Nat.pow_add, ← Nat.mod_mod_of_dvd x hdvd, h,
    Nat.mod_mod_of_dvd y hdvd]

theorem Channels.ext_toNat {c d : Channels} (ha : c.a.toNat = d.a.toNat) (hr : c.r.toNat = d.r.toNat)
    (hg : c.g.toNat = d.g.toNat) (hb : c.b.toNat = d.b.toNat) : c = d := by
  cases c
  cases d
  rw [Channels.mk.injEq]
  exact ⟨BitVec.eq_of_toNat_eq ha, BitVec.eq_of_toNat_eq hr, BitVec.eq_of_toNat_eq hg, BitVec.eq_of_toNat_eq hb⟩

/-- `pack` reads a channel's low bits only, as many as its width (R84). -/
theorem pack_congr {c d : Channels} {w : Widths} (ha : c.a.toNat % 2 ^ w.a.toNat = d.a.toNat % 2 ^ w.a.toNat)
    (hr : c.r.toNat % 2 ^ w.r.toNat = d.r.toNat % 2 ^ w.r.toNat)
    (hg : c.g.toNat % 2 ^ w.g.toNat = d.g.toNat % 2 ^ w.g.toNat)
    (hb : c.b.toNat % 2 ^ w.b.toNat = d.b.toNat % 2 ^ w.b.toNat) : pack c w = pack d w := by
  simp only [pack, and_ones, ha, hr, hg, hb]

/-- The masked channels, one put below the other. -/
def joined (c : Channels) (w : Widths) : Nat :=
  ((c.a.toNat % 2 ^ w.a.toNat * 2 ^ w.r.toNat + c.r.toNat % 2 ^ w.r.toNat) * 2 ^ w.g.toNat +
    c.g.toNat % 2 ^ w.g.toNat) * 2 ^ w.b.toNat + c.b.toNat % 2 ^ w.b.toNat

theorem mod_two_pow_lt (x n : Nat) : x % 2 ^ n < 2 ^ n := Nat.mod_lt x (Nat.two_pow_pos n)

theorem joined_lt (c : Channels) (w : Widths) :
    joined c w < 2 ^ (w.a.toNat + w.r.toNat + w.g.toNat + w.b.toNat) :=
  join_lt (join_lt (join_lt (mod_two_pow_lt _ _) (mod_two_pow_lt _ _)) (mod_two_pow_lt _ _)) (mod_two_pow_lt _ _)

theorem joined_eq_sum (c : Channels) (w : Widths) :
    joined c w = c.a.toNat % 2 ^ w.a.toNat * 2 ^ (w.r.toNat + w.g.toNat + w.b.toNat) +
      c.r.toNat % 2 ^ w.r.toNat * 2 ^ (w.g.toNat + w.b.toNat) + c.g.toNat % 2 ^ w.g.toNat * 2 ^ w.b.toNat +
      c.b.toNat % 2 ^ w.b.toNat := by
  simp only [joined, Nat.pow_add]
  ring

theorem or_eq_joined (c : Channels) (w : Widths) :
    ((c.a.toNat &&& ones w.a.toNat) <<< (w.r.toNat + w.g.toNat + w.b.toNat)) |||
      ((c.r.toNat &&& ones w.r.toNat) <<< (w.g.toNat + w.b.toNat)) |||
      ((c.g.toNat &&& ones w.g.toNat) <<< w.b.toNat) ||| (c.b.toNat &&& ones w.b.toNat) = joined c w := by
  simp only [and_ones]
  rw [joined_eq_sum, fields_or_eq_sum (mod_two_pow_lt _ _) (mod_two_pow_lt _ _) (mod_two_pow_lt _ _)]

/-- Legal widths fit the container: four times 8 bits are 32 (R84). -/
theorem pack_toNat (c : Channels) {w : Widths} (hw : Legal w) : (pack c w).toNat = joined c w := by
  obtain ⟨ha, hr, hg, hb⟩ : w.a.toNat ≤ 8 ∧ w.r.toNat ≤ 8 ∧ w.g.toNat ≤ 8 ∧ w.b.toNat ≤ 8 := hw
  have hfit : joined c w < 2 ^ 32 := (joined_lt c w).trans_le (Nat.pow_le_pow_right (by decide) (by omega))
  rw [pack, or_eq_joined, BitVec.toNat_ofNat, Nat.mod_eq_of_lt hfit]

theorem pack_lt (c : Channels) {w : Widths} (hw : Legal w) :
    (pack c w).toNat < 2 ^ (w.a.toNat + w.r.toNat + w.g.toNat + w.b.toNat) :=
  pack_toNat c hw ▸ joined_lt c w

/-- A field of a width to 8 fits a channel. -/
theorem ofNat_and_ones_toNat (x : Nat) {w : Width} (hw : w ≤ 8) :
    (BitVec.ofNat 8 (x &&& ones w.toNat)).toNat = x % 2 ^ w.toNat := by
  have hpow : 2 ^ w.toNat ≤ 2 ^ 8 := Nat.pow_le_pow_right (by decide) hw
  rw [and_ones, BitVec.toNat_ofNat, Nat.mod_eq_of_lt ((mod_two_pow_lt _ _).trans_le hpow)]

theorem unpack_toNat (raw : Word) {w : Widths} (hw : Legal w) :
    (unpack raw w).a.toNat = raw.toNat / 2 ^ (w.r.toNat + w.g.toNat + w.b.toNat) % 2 ^ w.a.toNat ∧
    (unpack raw w).r.toNat = raw.toNat / 2 ^ (w.g.toNat + w.b.toNat) % 2 ^ w.r.toNat ∧
    (unpack raw w).g.toNat = raw.toNat / 2 ^ w.b.toNat % 2 ^ w.g.toNat ∧
    (unpack raw w).b.toNat = raw.toNat % 2 ^ w.b.toNat := by
  obtain ⟨ha, hr, hg, hb⟩ := hw
  simp only [unpack, ofNat_and_ones_toNat _ ha, ofNat_and_ones_toNat _ hr, ofNat_and_ones_toNat _ hg,
    ofNat_and_ones_toNat _ hb, Nat.shiftRight_eq_div_pow, and_self]

theorem unpack_le (raw : Word) {w : Widths} (hw : Legal w) :
    (unpack raw w).a.toNat ≤ ones w.a.toNat ∧ (unpack raw w).r.toNat ≤ ones w.r.toNat ∧
    (unpack raw w).g.toNat ≤ ones w.g.toNat ∧ (unpack raw w).b.toNat ≤ ones w.b.toNat := by
  obtain ⟨ha, hr, hg, hb⟩ := unpack_toNat raw hw
  rw [ha, hr, hg, hb]
  exact ⟨Nat.le_sub_one_of_lt (mod_two_pow_lt _ _), Nat.le_sub_one_of_lt (mod_two_pow_lt _ _),
    Nat.le_sub_one_of_lt (mod_two_pow_lt _ _), Nat.le_sub_one_of_lt (mod_two_pow_lt _ _)⟩

/-- Bits at and above the widths' sum are not read (R87). -/
theorem unpack_congr {raw raw' : Word} {w : Widths} (hw : Legal w)
    (h : raw'.toNat % 2 ^ (w.a.toNat + w.r.toNat + w.g.toNat + w.b.toNat) =
      raw.toNat % 2 ^ (w.a.toNat + w.r.toNat + w.g.toNat + w.b.toNat)) : unpack raw' w = unpack raw w := by
  obtain ⟨ha, hr, hg, hb⟩ := unpack_toNat raw hw
  obtain ⟨ha', hr', hg', hb'⟩ := unpack_toNat raw' hw
  apply Channels.ext_toNat
  · rw [ha, ha', field_eq_of_mod_eq h (by omega)]
  · rw [hr, hr', field_eq_of_mod_eq h (by omega)]
  · rw [hg, hg', field_eq_of_mod_eq h (by omega)]
  · simpa [hb, hb'] using field_eq_of_mod_eq (k := 0) (m := w.b.toNat) h (by omega)

/-- Packing the fields of a container gives it back: a number is its quotient and remainder, field by field (R86). -/
theorem pack_unpack {raw : Word} {w : Widths} (hw : Legal w)
    (h : raw.toNat < 2 ^ (w.a.toNat + w.r.toNat + w.g.toNat + w.b.toNat)) : pack (unpack raw w) w = raw := by
  obtain ⟨ha, hr, hg, hb⟩ := unpack_toNat raw hw
  have htop : raw.toNat / 2 ^ (w.r.toNat + w.g.toNat + w.b.toNat) < 2 ^ w.a.toNat := by
    apply Nat.div_lt_of_lt_mul
    rwa [← Nat.pow_add, Nat.add_comm, ← Nat.add_assoc, ← Nat.add_assoc]
  apply BitVec.eq_of_toNat_eq
  rw [pack_toNat _ hw, joined, ha, hr, hg, hb, Nat.mod_mod, Nat.mod_mod, Nat.mod_mod, Nat.mod_mod, Nat.mod_eq_of_lt htop]
  simp only [div_two_pow_add, Nat.div_add_mod']

/-- Channels that fit their widths come back from the container they are packed in (R86). -/
theorem unpack_pack {c : Channels} {w : Widths} (hw : Legal w) (ha : c.a.toNat ≤ ones w.a.toNat)
    (hr : c.r.toNat ≤ ones w.r.toNat) (hg : c.g.toNat ≤ ones w.g.toNat) (hb : c.b.toNat ≤ ones w.b.toNat) :
    unpack (pack c w) w = c := by
  have masked {x n : Nat} (h : x ≤ ones n) : x % 2 ^ n = x :=
    Nat.mod_eq_of_lt (Nat.lt_of_le_sub_one (Nat.two_pow_pos n) h)
  obtain ⟨hua, hur, hug, hub⟩ := unpack_toNat (pack c w) hw
  rw [pack_toNat c hw, joined] at hua hur hug hub
  simp only [div_two_pow_add, join_div _ (mod_two_pow_lt _ _), Nat.mul_add_mod_of_lt (mod_two_pow_lt _ _), Nat.mod_mod]
    at hua hur hug hub
  exact Channels.ext_toNat (hua.trans (masked ha)) (hur.trans (masked hr)) (hug.trans (masked hg)) (hub.trans (masked hb))

/-- Settles O26, from the masked channels put one below the other. -/
theorem packConcatenatesTheChannels : Obligations.PackConcatenatesTheChannels :=
  fun c w hw => ⟨(pack_toNat c hw).trans (or_eq_joined c w).symm, (pack_toNat c hw).trans (joined_eq_sum c w),
    pack_lt c hw⟩

/-- Settles O28, from the fields as quotients and remainders. -/
theorem unpackExtractsTheFields : Obligations.UnpackExtractsTheFields := by
  intro raw w hw
  obtain ⟨ha, hr, hg, hb⟩ := unpack_toNat raw hw
  exact ⟨ha, hr, hg, hb, fun raw' h => unpack_congr hw h⟩

/-! ### Command words (R62, R63, R68) -/

/-- To know an opcode's legal words is to know what its words can decode to. -/
theorem otherWordsRaise {op : Nat} {legal : Word → Prop}
    (h : ∀ (v : Word) (i : Instr), v.toNat % 16 = op → decode v = some i → legal v) : OtherWordsRaise op legal := by
  intro s v hop hv
  cases hd : decode v with
  | none => rw [execWord_illegal s hd, raise_eq_raised]
  | some i => exact absurd (h v i hop hd) hv

/-- What a decoded word's opcode map answered. -/
theorem decodeOp_of_decode {v : Word} {i : Instr} (h : decode v = some i) : decodeOp v = some i :=
  (Option.ite_none_right_eq_some.1 h).2

theorem wellFormed_widthOp_iff (op : WidthOp) (w : Widths) : (op.instr w).wellFormed = true ↔ Legal w := by
  rw [wellFormed_widthOp, widths_ok_iff_legal]

theorem decode_widthOp_iff (op : WidthOp) (w : Widths) (v : Word) :
    decode v = some (op.instr w) ↔ Legal w ∧ v = wordW w (opOf op) := by
  rw [decode_eq_some_iff, wellFormed_widthOp_iff, encode_widthOp]

theorem decodeOp_widthOp {op : WidthOp} {v : Word} (h : v.toNat % 16 = opOf op) :
    decodeOp v = decodeW v op.instr := by
  cases op <;> rw [decodeOp, opField_toNat, h] <;> rfl

theorem widthOp_otherWordsRaise (op : WidthOp) :
    OtherWordsRaise (opOf op) fun v => ∃ w : Widths, Legal w ∧ v = wordW w (opOf op) := by
  refine otherWordsRaise fun v i hop hd => ?_
  obtain ⟨-, rfl⟩ := eq_of_decodeW (decodeOp_widthOp hop ▸ decodeOp_of_decode hd)
  exact ⟨_, (decode_widthOp_iff op _ v).1 hd⟩

/-- The word of RESCALE (R62). -/
theorem encode_rescale (value : Byte) (f t : Width) : encode (.rescale value f t) =
    BitVec.ofNat 32 (value.toNat * 2 ^ 16 + t.toNat * 2 ^ 12 + f.toNat * 2 ^ 8 + 1) := by
  rw [← encodeR_toNat, BitVec.ofNat_toNat, BitVec.setWidth_eq, encode]

theorem wellFormed_rescale_iff (value : Byte) (f t : Width) :
    (Instr.rescale value f t).wellFormed = true ↔ f ≤ 8 ∧ t ≤ 8 := by
  rw [Instr.wellFormed, Bool.and_eq_true, Width.ok_iff, Width.ok_iff]
  rfl

theorem decode_rescale_iff (value : Byte) (f t : Width) (v : Word) : decode v = some (.rescale value f t) ↔
    (f ≤ 8 ∧ t ≤ 8) ∧ v = BitVec.ofNat 32 (value.toNat * 2 ^ 16 + t.toNat * 2 ^ 12 + f.toNat * 2 ^ 8 + 1) := by
  rw [decode_eq_some_iff, wellFormed_rescale_iff, encode_rescale]

theorem decodeOp_rescale {v : Word} (h : v.toNat % 16 = 1) : decodeOp v = decodeR v := by
  rw [decodeOp, opField_toNat, h]
  rfl

theorem rescale_otherWordsRaise : OtherWordsRaise 1 fun v => ∃ (x : Byte) (f t : Width), f ≤ 8 ∧ t ≤ 8 ∧
    v = BitVec.ofNat 32 (x.toNat * 2 ^ 16 + t.toNat * 2 ^ 12 + f.toNat * 2 ^ 8 + 1) := by
  refine otherWordsRaise fun v i hop hd => ?_
  obtain ⟨-, rfl⟩ := eq_of_decodeR (decodeOp_rescale hop ▸ decodeOp_of_decode hd)
  obtain ⟨⟨hf, ht⟩, hv⟩ := (decode_rescale_iff _ _ _ v).1 hd
  exact ⟨_, _, _, hf, ht, hv⟩

theorem decodeOp_luma {v : Word} (h : v.toNat % 16 = 6) : decodeOp v = decodeN v .luma := by
  rw [decodeOp, opField_toNat, h]
  rfl

theorem decode_luma_iff (v : Word) : decode v = some .luma ↔ v = 6 :=
  (decode_eq_some_iff v .luma).trans (and_iff_right rfl)

theorem luma_otherWordsRaise : OtherWordsRaise 6 (· = 6) := by
  refine otherWordsRaise fun v i hop hd => ?_
  obtain rfl := eq_of_decodeN (decodeOp_luma hop ▸ decodeOp_of_decode hd)
  exact (decode_luma_iff v).1 hd

/-! ### Executing a command whose immediates are checked (R82, R85, R88 to R90) -/

theorem runCommand_ifLegal_true {i : Instr} (s t : State) (h : i.wellFormed = true) :
    runCommand s (ifLegal i t) = .next (done t) := by
  rw [ifLegal_true t h]
  rfl

theorem runCommand_ifLegal_false {i : Instr} (s t : State) (h : ¬i.wellFormed = true) :
    runCommand s (ifLegal i t) = .next (raised .illegalCommand s) := by
  rw [ifLegal_false t (Bool.eq_false_iff.2 h), runCommand_error, raise_eq_raised]

theorem exec_pack_legal (s : State) {w : Widths} (hw : Legal w) :
    exec (.pack w) s = .next (done { s with raw := pack (channelsOf s.color) w }) :=
  runCommand_ifLegal_true s _ ((wellFormed_widthOp_iff .pack w).2 hw)

theorem exec_unpack_legal (s : State) {w : Widths} (hw : Legal w) :
    exec (.unpack w) s = .next (done { s with color := colorOf (unpack s.raw w) }) :=
  runCommand_ifLegal_true s _ ((wellFormed_widthOp_iff .unpack w).2 hw)

theorem exec_encode_legal (s : State) {w : Widths} (hw : Legal w) :
    exec (.encode w) s = .next (done { s with raw := pack (toNative (channelsOf s.color) w) w }) :=
  runCommand_ifLegal_true s _ ((wellFormed_widthOp_iff .encode w).2 hw)

theorem exec_decode_legal (s : State) {w : Widths} (hw : Legal w) :
    exec (.decode w) s = .next (done { s with color := colorOf (toCanonical (unpack s.raw w) w) }) :=
  runCommand_ifLegal_true s _ ((wellFormed_widthOp_iff .decode w).2 hw)

theorem exec_widthOp_illegal (op : WidthOp) (s : State) {w : Widths} (hw : ¬Legal w) :
    exec (op.instr w) s = .next (raised .illegalCommand s) := by
  have hwf := mt (wellFormed_widthOp_iff op w).1 hw
  cases op with
  | pack => exact runCommand_ifLegal_false s _ hwf
  | unpack => exact runCommand_ifLegal_false s _ hwf
  | encode => exact runCommand_ifLegal_false s _ hwf
  | decode => exact runCommand_ifLegal_false s _ hwf

/-- The operand of RESCALE is masked to its source width (R83). -/
theorem lowBits_eq_ofNat (v : Byte) (w : Width) : lowBits v w = BitVec.ofNat 8 (v.toNat % 2 ^ w.toNat) := by
  rw [← lowBits_toNat, BitVec.ofNat_toNat, BitVec.setWidth_eq]

theorem lowBits_le (v : Byte) (w : Width) : (lowBits v w).toNat ≤ ones w.toNat :=
  lowBits_toNat v w ▸ Nat.le_sub_one_of_lt (mod_two_pow_lt _ _)

theorem lowBits_zero (w : Width) : lowBits 0 w = 0 := BitVec.zero_and

/-- Settles O25: the result and its corner cases by the properties of rescale on the masked operand. -/
theorem rescaleCommand : Obligations.RescaleCommand := by
  intro s value f t
  refine ⟨decode_rescale_iff value f t, fun hf8 ht8 => ⟨_, rfl, rescale_absent, ?_, ?_, ?_⟩,
    fun hft => runCommand_ifLegal_false s _ (mt (wellFormed_rescale_iff value f t).1 hft), rescale_otherWordsRaise⟩
  all_goals rw [← lowBits_eq_ofNat]
  · rintro rfl hf ht
    rw [lowBits_zero, rescale_zero hf ht ht8]
  · rintro rfl hf
    rw [rescale_self hf hf8 (lowBits_le value f), lowBits_toNat]
  · exact runCommand_ifLegal_true s _ ((wellFormed_rescale_iff value f t).2 ⟨hf8, ht8⟩)

/-! ### The tuples of the corner cases: no channel, and every channel in full -/

theorem pack_none (c : Channels) : pack c ⟨0, 0, 0, 0⟩ = 0 :=
  BitVec.eq_of_toNat_eq (Nat.lt_one_iff.1 (pack_lt c (by decide)))

theorem unpack_full (raw : Word) : unpack raw ⟨8, 8, 8, 8⟩ = channelsOf raw := by
  obtain ⟨ha, hr, hg, hb⟩ := unpack_toNat raw (w := ⟨8, 8, 8, 8⟩) (by decide)
  exact Channels.ext_toNat (ha.trans (field_toNat raw 24 8).symm) (hr.trans (field_toNat raw 16 8).symm)
    (hg.trans (field_toNat raw 8 8).symm) (by rw [hb, channelsOf, field_toNat, Nat.pow_zero, Nat.div_one]; rfl)

theorem pack_full (c : Word) : pack (channelsOf c) ⟨8, 8, 8, 8⟩ = c := by
  rw [← unpack_full, pack_unpack (by decide) c.isLt]

theorem rescale_full (v : Byte) : rescale v 8 8 = v :=
  rescale_self (by decide) (by decide) (Nat.le_sub_one_of_lt v.isLt)

theorem toNative_full (c : Channels) : toNative c ⟨8, 8, 8, 8⟩ = c := by
  simp only [toNative, rescale_full]

theorem toCanonical_full (c : Channels) : toCanonical c ⟨8, 8, 8, 8⟩ = c := by
  simp only [toCanonical, rescale_full]

/-- With every channel absent a decoded color is all ones, whatever the container held (R90). -/
theorem toCanonical_none (c : Channels) : toCanonical c ⟨0, 0, 0, 0⟩ = ⟨255, 255, 255, 255⟩ := by
  simp only [toCanonical, rescale_absent (.inl rfl)]

/-! ### The commands with a width tuple -/

/-- The channels of a color as numbers, by R11's fields. -/
theorem channels_colorOf (c : Channels) : alpha (colorOf c) = c.a.toNat ∧ red (colorOf c) = c.r.toNat ∧
    green (colorOf c) = c.g.toNat ∧ blue (colorOf c) = c.b.toNat := by
  obtain ⟨ha, hr, hg, hb⟩ := colorFieldsAreItsFourBytes.1 (colorOf c)
  rw [channelsOf_colorOf] at ha hr hg hb
  exact ⟨ha.symm, hr.symm, hg.symm, hb.symm⟩

/-- A field of no bits is zero. -/
theorem ofNat_and_ones_absent {w : Width} (x : Nat) (h : w = 0) : (BitVec.ofNat 8 (x &&& ones w.toNat)).toNat = 0 := by
  subst h
  rw [ofNat_and_ones_toNat x (by decide)]
  exact Nat.mod_one x

/-- Settles O27, from the rules for a width operation and the two corner tuples. -/
theorem packCommand : Obligations.PackCommand :=
  fun s w => ⟨decode_widthOp_iff .pack w, exec_pack_legal s, fun h => h ▸ pack_none _, fun h => h ▸ pack_full _,
    exec_widthOp_illegal .pack s, widthOp_otherWordsRaise .pack⟩

/-- Settles O29: an absent channel is a field of no bits. -/
theorem unpackCommand : Obligations.UnpackCommand := by
  intro s w
  refine ⟨decode_widthOp_iff .unpack w, fun hw => ?_, exec_widthOp_illegal .unpack s, widthOp_otherWordsRaise .unpack⟩
  obtain ⟨ha, hr, hg, hb⟩ := channels_colorOf (unpack s.raw w)
  exact ⟨_, channelsOf_colorOf _, exec_unpack_legal s hw, fun h => ha.trans (ofNat_and_ones_absent _ h),
    fun h => hr.trans (ofNat_and_ones_absent _ h), fun h => hg.trans (ofNat_and_ones_absent _ h),
    fun h => hb.trans (ofNat_and_ones_absent _ h)⟩

/-- Settles O30: every legal tuple's word decodes, and the two functions undo each other. -/
theorem packAndUnpackAreInverse : Obligations.PackAndUnpackAreInverse := by
  intro w hw
  have decodes (op : WidthOp) : decode (wordW w (opOf op)) ≠ none := by
    rw [(decode_widthOp_iff op w _).2 ⟨hw, rfl⟩]
    exact Option.some_ne_none _
  refine ⟨fun op hop => ?_, fun raw => pack_unpack hw, fun c => unpack_pack hw⟩
  simp only [List.mem_cons, List.not_mem_nil, or_false] at hop
  rcases hop with rfl | rfl | rfl | rfl
  · exact decodes .pack
  · exact decodes .unpack
  · exact decodes .encode
  · exact decodes .decode

/-- Settles O31, from the rules for a width operation. -/
theorem encodeCommand : Obligations.EncodeCommand :=
  fun s w => ⟨decode_widthOp_iff .encode w, fun hw => ⟨_, rfl, exec_encode_legal s hw, fun h => h ▸ pack_none _⟩,
    fun v => ⟨rescale_full v, rescale_absent (.inr rfl)⟩, exec_widthOp_illegal .encode s,
    widthOp_otherWordsRaise .encode⟩

/-- Settles O32, from the rules for a width operation. -/
theorem decodeCommand : Obligations.DecodeCommand := by
  intro s w
  refine ⟨decode_widthOp_iff .decode w, fun hw => ⟨_, exec_decode_legal s hw, channelsOf_colorOf _, ?_⟩,
    fun v => ⟨rescale_full v, rescale_absent (.inl rfl)⟩, exec_widthOp_illegal .decode s,
    widthOp_otherWordsRaise .decode⟩
  rintro rfl
  rw [toCanonical_none]
  rfl

/-! ### Absent channels, and the laws of encoding and decoding (R91, R92) -/

theorem rescale_absent_toNat {v : Byte} {w : Width} (h : w = 0) : (rescale v w 8).toNat = 255 := by
  rw [rescale_absent (.inl h)]
  rfl

/-- A channel that is absent, or the same in both colors, is encoded the same (R91). -/
theorem rescale_congr_absent {u v : Byte} {w : Width} (h : w = 0 ∨ u.toNat = v.toNat) : rescale u 8 w = rescale v 8 w := by
  rcases h with hw | huv
  · rw [rescale_absent (.inr hw), rescale_absent (.inr hw)]
  · rw [BitVec.eq_of_toNat_eq huv]

/-- Settles O33: an absent channel is 255 on decode and on encode, whatever the source holds. -/
theorem absentChannelsDefaultAndAreIgnored : Obligations.AbsentChannelsDefaultAndAreIgnored := by
  refine ⟨fun s w hw => ?_, fun s c w hw ha hr hg hb => ?_, fun s hraw => ?_⟩
  · obtain ⟨ha, hr, hg, hb⟩ := channels_colorOf (toCanonical (unpack s.raw w) w)
    exact ⟨_, exec_decode_legal s hw, fun h => ha.trans (rescale_absent_toNat h),
      fun h => hr.trans (rescale_absent_toNat h), fun h => hg.trans (rescale_absent_toNat h),
      fun h => hb.trans (rescale_absent_toNat h)⟩
  · have hnative : toNative (channelsOf s.color) w = toNative (channelsOf c) w := by
      obtain ⟨hca, hcr, hcg, hcb⟩ := colorFieldsAreItsFourBytes.1 c
      obtain ⟨hsa, hsr, hsg, hsb⟩ := colorFieldsAreItsFourBytes.1 s.color
      simp only [← hca, ← hcr, ← hcg, ← hcb, ← hsa, ← hsr, ← hsg, ← hsb] at ha hr hg hb
      simp only [toNative, rescale_congr_absent ha, rescale_congr_absent hr, rescale_congr_absent hg,
        rescale_congr_absent hb]
    exact ⟨_, _, exec_encode_legal s hw, exec_encode_legal _ hw, congrArg (pack · w) hnative⟩
  · refine ⟨_, exec_decode_legal s (by decide), ?_⟩
    change colorOf (toCanonical (unpack s.raw _) _) = _
    rw [hraw]
    decide

/-- To canonical and back a native channel keeps the bits `pack` reads; an absent one has none (R91, R92). -/
theorem rescale_rescale_mod {v : Byte} {w : Width} (hw8 : w ≤ 8) (hv : v.toNat ≤ ones w.toNat) :
    (rescale (rescale v w 8) 8 w).toNat % 2 ^ w.toNat = v.toNat % 2 ^ w.toNat := by
  by_cases hw : w = 0
  · subst hw
    exact (Nat.mod_one _).trans (Nat.mod_one _).symm
  · rw [rescale_rescale hw hw8 (BitVec.le_refl _) hv]

/-- Encoding what was decoded restores the container (R92 (a)). -/
theorem pack_toNative_toCanonical_unpack {raw : Word} {w : Widths} (hw : Legal w)
    (h : raw.toNat < 2 ^ (w.a.toNat + w.r.toNat + w.g.toNat + w.b.toNat)) :
    pack (toNative (toCanonical (unpack raw w) w) w) w = raw := by
  have ⟨ha8, hr8, hg8, hb8⟩ := hw
  obtain ⟨ha, hr, hg, hb⟩ := unpack_le raw hw
  rw [pack_congr (d := unpack raw w) (rescale_rescale_mod ha8 ha) (rescale_rescale_mod hr8 hr)
    (rescale_rescale_mod hg8 hg) (rescale_rescale_mod hb8 hb), pack_unpack hw h]

/-- DECODE then ENCODE from any state whose RAW fits the widths (R92 (a)). -/
theorem exec_decode_encode (s : State) {w : Widths} (hw : Legal w)
    (h : s.raw.toNat < 2 ^ (w.a.toNat + w.r.toNat + w.g.toNat + w.b.toNat)) :
    ∃ t u, exec (.decode w) s = .next t ∧ exec (.encode w) t = .next u ∧ u.raw = s.raw := by
  refine ⟨_, _, exec_decode_legal s hw, exec_encode_legal _ hw, ?_⟩
  change pack (toNative (channelsOf (colorOf _)) w) w = s.raw
  rw [channelsOf_colorOf, pack_toNative_toCanonical_unpack hw h]

/-- Settles O34: (b) is (a) after an ENCODE, whose RAW fits the widths; (c) because the full tuple rescales nothing. -/
theorem encodeAndDecodeObeyTheirLaws : Obligations.EncodeAndDecodeObeyTheirLaws := by
  intro s w hw
  refine ⟨exec_decode_encode s hw, ?_, ?_⟩
  · have henc := exec_encode_legal s hw
    obtain ⟨u, v, hu, hv, hraw⟩ :=
      exec_decode_encode (done { s with raw := pack (toNative (channelsOf s.color) w) w }) hw (pack_lt _ hw)
    exact ⟨_, u, v, henc, hu, hv, hraw⟩
  · rintro rfl
    rw [exec_encode_legal s hw, exec_pack_legal s hw, exec_decode_legal s hw, exec_unpack_legal s hw, toNative_full,
      toCanonical_full, unpack_full, pack_full, colorOf_channelsOf]
    exact ⟨rfl, rfl, rfl, rfl⟩

/-! ### LUMA (R96) -/

theorem exec_luma (s : State) : exec .luma s = .next (done { s with val := luma (channelsOf s.color) }) := rfl

theorem luma_gray {c : Channels} (h : c.r = c.g ∧ c.g = c.b) : luma c = c.r := if_pos h

theorem luma_weighted {c : Channels} (h : ¬(c.r = c.g ∧ c.g = c.b)) : luma c = Config.lumaWeighted c.r c.g c.b :=
  if_neg h

/-- Settles O35: a gray color by the fast path, any other by the free value. -/
theorem lumaCommand : Obligations.LumaCommand := by
  refine ⟨decode_luma_iff, luma_otherWordsRaise, fun s r g b hr hg hb => ?_⟩
  obtain ⟨-, hcr, hcg, hcb⟩ := colorFieldsAreItsFourBytes.1 s.color
  obtain rfl : r = (channelsOf s.color).r := BitVec.eq_of_toNat_eq (hr.trans hcr.symm)
  obtain rfl : g = (channelsOf s.color).g := BitVec.eq_of_toNat_eq (hg.trans hcg.symm)
  obtain rfl : b = (channelsOf s.color).b := BitVec.eq_of_toNat_eq (hb.trans hcb.symm)
  exact ⟨fun hrg hgb => by rw [exec_luma, luma_gray ⟨hrg, hgb⟩], fun h => by rw [exec_luma, luma_weighted h]⟩

end Sys2Proof.Machine

/-! ## Palette family: the classification, the distances, the scan, and the palette commands (spec/41_palette.md) -/

namespace Sys2Proof.Machine

open Sys2Proof.Spec

/-! ### Command words (R61, R64, R68) -/

/-- An opcode of format N has one legal word. -/
theorem formatN_otherWordsRaise {op : Nat} {i : Instr} (h : ∀ v : Word, v.toNat % 16 = op → decodeOp v = decodeN v i) :
    OtherWordsRaise op (· = encode i) := by
  refine otherWordsRaise fun v j hop hd => ?_
  obtain rfl := eq_of_decodeN (h v hop ▸ decodeOp_of_decode hd)
  exact (encode_of_decode hd).symm

theorem classify_otherWordsRaise : OtherWordsRaise 8 (· = 8) :=
  formatN_otherWordsRaise (i := .classify) fun v h => by rw [decodeOp, opField_toNat, h]; rfl

theorem match_otherWordsRaise : OtherWordsRaise 9 (· = 9) :=
  formatN_otherWordsRaise (i := .matchColor) fun v h => by rw [decodeOp, opField_toNat, h]; rfl

theorem lookup_otherWordsRaise : OtherWordsRaise 10 (· = 10) :=
  formatN_otherWordsRaise (i := .lookup) fun v h => by rw [decodeOp, opField_toNat, h]; rfl

theorem decode_classify_iff (v : Word) : decode v = some .classify ↔ v = 8 :=
  (decode_eq_some_iff v .classify).trans (and_iff_right rfl)

theorem decode_match_iff (v : Word) : decode v = some .matchColor ↔ v = 9 :=
  (decode_eq_some_iff v .matchColor).trans (and_iff_right rfl)

theorem decode_lookup_iff (v : Word) : decode v = some .lookup ↔ v = 10 :=
  (decode_eq_some_iff v .lookup).trans (and_iff_right rfl)

/-- The word of SETPLEN (R64). -/
theorem encode_setPlen (n : BitVec 9) : encode (.setPlen n) = BitVec.ofNat 32 (n.toNat * 2 ^ 8 + 7) := by
  rw [← encodeP_toNat, BitVec.ofNat_toNat, BitVec.setWidth_eq, encode]

theorem decode_setPlen_iff (n : BitVec 9) (v : Word) :
    decode v = some (.setPlen n) ↔ n ≤ 256 ∧ v = BitVec.ofNat 32 (n.toNat * 2 ^ 8 + 7) := by
  rw [decode_eq_some_iff, wellFormed_setPlen, decide_eq_true_eq, encode_setPlen]

theorem decodeOp_setPlen {v : Word} (h : v.toNat % 16 = 7) : decodeOp v = decodeP v := by
  rw [decodeOp, opField_toNat, h]
  rfl

theorem setPlen_otherWordsRaise :
    OtherWordsRaise 7 fun v => ∃ n : BitVec 9, n ≤ 256 ∧ v = BitVec.ofNat 32 (n.toNat * 2 ^ 8 + 7) := by
  refine otherWordsRaise fun v i hop hd => ?_
  obtain ⟨-, rfl⟩ := eq_of_decodeP (decodeOp_setPlen hop ▸ decodeOp_of_decode hd)
  exact ⟨_, (decode_setPlen_iff _ v).1 hd⟩

/-! ### SETPLEN (R111) -/

theorem exec_classify_raised {s : State} (h : s.plen = 0) : exec .classify s = .next (raised .emptyPalette s) := by
  rw [exec_classify_empty h, raise_eq_raised]

theorem exec_match_raised {s : State} (h : s.plen = 0) : exec .matchColor s = .next (raised .emptyPalette s) := by
  rw [exec_match_empty h, raise_eq_raised]

/-- Settles O36: a length in range completes, another fails the check, and an empty palette fails CLASSIFY and MATCH. -/
theorem setPlenCommand : Obligations.SetPlenCommand := by
  intro s n
  refine ⟨decode_setPlen_iff n, fun hn => ?_, fun hn => ?_, fun h => ⟨exec_classify_raised h, exec_match_raised h⟩,
    setPlen_otherWordsRaise⟩
  · exact ⟨PClass.cleared, (PClass.word_eq_zero_iff _).2 rfl, exec_setPlen_legal s hn⟩
  · exact runCommand_ifLegal_false s _ (by rwa [wellFormed_setPlen, decide_eq_true_eq])

/-! ### The classification (R112, R113) -/

theorem alphaOf_toNat (p : Word) : (alphaOf p).toNat = alpha p := (colorFieldsAreItsFourBytes.1 p).1

theorem alphaOf_eq_iff (p : Word) (x : Byte) : alphaOf p = x ↔ alpha p = x.toNat := by
  rw [← BitVec.toNat_inj, alphaOf_toNat]

theorem all_alphaOf_opaque_iff (P : List Word) : (P.all fun p => alphaOf p == 255) = true ↔ ∀ p ∈ P, alpha p = 255 := by
  simp [alphaOf_eq_iff]

theorem any_alphaOf_opaque_iff (P : List Word) : (P.any fun p => alphaOf p == 255) = true ↔ ∃ p ∈ P, alpha p = 255 := by
  simp [alphaOf_eq_iff]

theorem all_alphaOf_binary_iff (P : List Word) :
    (P.all fun p => alphaOf p == 0 || alphaOf p == 255) = true ↔ ∀ p ∈ P, alpha p = 0 ∨ alpha p = 255 := by
  simp [alphaOf_eq_iff]

/-- A palette with an opaque entry is not transparent. -/
theorem not_transparent_of_opaque {P : List Word} (h : ∃ p ∈ P, alpha p = 255) : ¬∀ p ∈ P, alpha p = 0 := by
  obtain ⟨p, hp, h255⟩ := h
  intro h0
  have := h0 p hp
  omega

/-- R112 in plain arithmetic: the demotion applies to a palette of alphas 0 and 255 with a 255 among them. -/
theorem classify_demoted {P : List Word} (hbin : ∀ p ∈ P, alpha p = 0 ∨ alpha p = 255) (hopaque : ∃ p ∈ P, alpha p = 255) :
    classify P = (true, false) := by
  rw [classify, (all_alphaOf_binary_iff P).2 hbin, (any_alphaOf_opaque_iff P).2 hopaque]
  rfl

/-- R112 in plain arithmetic: a non-empty palette of alpha 0. -/
theorem classify_transparent {P : List Word} (hP : P ≠ []) (h : ∀ p ∈ P, alpha p = 0) : classify P = (false, true) := by
  have hbin := (all_alphaOf_binary_iff P).2 fun p hp => .inl (h p hp)
  have hany : (P.any fun p => alphaOf p == 255) = false := by
    rw [Bool.eq_false_iff, Ne, any_alphaOf_opaque_iff]
    exact fun hopaque => not_transparent_of_opaque hopaque h
  have hall : (P.all fun p => alphaOf p == 255) = false := by
    obtain ⟨p, hp⟩ := List.exists_mem_of_ne_nil P hP
    rw [Bool.eq_false_iff, Ne, all_alphaOf_opaque_iff]
    exact fun h255 => not_transparent_of_opaque ⟨p, hp, h255 p hp⟩ h
  rw [classify, hbin, hany, hall]
  rfl

/-- R112 in plain arithmetic: an alpha of 1 to 254 clears both flags. -/
theorem classify_partial {P : List Word} (h : ∃ p ∈ P, alpha p ≠ 0 ∧ alpha p ≠ 255) : classify P = (false, false) := by
  obtain ⟨p, hp, h0, h255⟩ := h
  have hbin : (P.all fun p => alphaOf p == 0 || alphaOf p == 255) = false := by
    rw [Bool.eq_false_iff, Ne, all_alphaOf_binary_iff]
    exact fun hb => (hb p hp).elim h0 h255
  have hall : (P.all fun p => alphaOf p == 255) = false := by
    rw [Bool.eq_false_iff, Ne, all_alphaOf_opaque_iff]
    exact fun ha => h255 (ha p hp)
  rw [classify, hbin, hall]
  rfl

/-- The alphas of a palette are in one of three cases (R113). -/
theorem palette_alpha_cases (P : List Word) :
    ((∀ p ∈ P, alpha p = 0 ∨ alpha p = 255) ∧ ∃ p ∈ P, alpha p = 255) ∨ (∀ p ∈ P, alpha p = 0) ∨
      ∃ p ∈ P, alpha p ≠ 0 ∧ alpha p ≠ 255 := by
  by_cases hbin : ∀ p ∈ P, alpha p = 0 ∨ alpha p = 255
  · by_cases hopaque : ∃ p ∈ P, alpha p = 255
    · exact .inl ⟨hbin, hopaque⟩
    · exact .inr (.inl fun p hp => (hbin p hp).resolve_right fun h => hopaque ⟨p, hp, h⟩)
  · push Not at hbin
    exact .inr (.inr hbin)

/-- `one_bit_alpha` ends true exactly when every entry is fully transparent (R113). -/
theorem classify_oneBitAlpha_iff {P : List Word} (hP : P ≠ []) : (classify P).2 = true ↔ ∀ p ∈ P, alpha p = 0 := by
  rcases palette_alpha_cases P with ⟨hbin, hopaque⟩ | h | ⟨p, hp, h0, h255⟩
  · rw [classify_demoted hbin hopaque]
    exact iff_of_false Bool.false_ne_true (not_transparent_of_opaque hopaque)
  · rw [classify_transparent hP h]
    exact iff_of_true rfl h
  · rw [classify_partial ⟨p, hp, h0, h255⟩]
    exact iff_of_false Bool.false_ne_true fun h => h0 (h p hp)

/-- `no_alpha` ends true exactly when every alpha is 0 or 255 and at least one is 255 (R113). -/
theorem classify_noAlpha_iff {P : List Word} (hP : P ≠ []) :
    (classify P).1 = true ↔ (∀ p ∈ P, alpha p = 0 ∨ alpha p = 255) ∧ ∃ p ∈ P, alpha p = 255 := by
  rcases palette_alpha_cases P with ⟨hbin, hopaque⟩ | h | ⟨p, hp, h0, h255⟩
  · rw [classify_demoted hbin hopaque]
    exact iff_of_true rfl ⟨hbin, hopaque⟩
  · rw [classify_transparent hP h]
    exact iff_of_false Bool.false_ne_true fun hopaque => not_transparent_of_opaque hopaque.2 h
  · rw [classify_partial ⟨p, hp, h0, h255⟩]
    exact iff_of_false Bool.false_ne_true fun h => (h.1 p hp).elim h0 h255

/-- The metric is on red, green and blue exactly when every alpha is 0 or 255 (R115). -/
theorem rgbOnly_iff {P : List Word} (hP : P ≠ []) : rgbOnly P = true ↔ ∀ p ∈ P, alpha p = 0 ∨ alpha p = 255 := by
  rcases palette_alpha_cases P with ⟨hbin, hopaque⟩ | h | ⟨p, hp, h0, h255⟩
  · rw [rgbOnly, classify_demoted hbin hopaque]
    exact iff_of_true rfl hbin
  · rw [rgbOnly, classify_transparent hP h]
    exact iff_of_true rfl fun p hp => .inl (h p hp)
  · rw [rgbOnly, classify_partial ⟨p, hp, h0, h255⟩]
    exact iff_of_false Bool.false_ne_true fun h => (h p hp).elim h0 h255

theorem classOf_of_classify {P : List Word} {noAlpha oneBitAlpha : Bool} (h : classify P = (noAlpha, oneBitAlpha)) :
    classOf P = ⟨noAlpha, oneBitAlpha, true⟩ := by
  rw [classOf, h]

/-- Settles O37: the rows from the three cases of a palette, the closing sentence from the flags' characterisations. -/
theorem classificationClosedForm : Obligations.ClassificationClosedForm := by
  intro P hP
  have demoted (h : classify P = (true, false)) : classify P = (true, false) ∧ (classOf P).word = 5 :=
    ⟨h, by rw [classOf_of_classify h]; rfl⟩
  refine ⟨fun h => ?_, fun hbin _ hopaque => demoted (classify_demoted hbin hopaque), fun h => ?_, fun h => ?_,
    classify_oneBitAlpha_iff hP, classify_noAlpha_iff hP, ?_⟩
  · obtain ⟨p, hp⟩ := List.exists_mem_of_ne_nil P hP
    exact demoted (classify_demoted (fun q hq => .inr (h q hq)) ⟨p, hp, h p hp⟩)
  · have hc := classify_transparent hP h
    exact ⟨hc, by rw [classOf_of_classify hc]; rfl⟩
  · have hc := classify_partial h
    exact ⟨hc, by rw [classOf_of_classify hc]; rfl⟩
  · rw [classify_noAlpha_iff hP, classify_oneBitAlpha_iff hP]
    exact fun ⟨⟨_, hopaque⟩, h0⟩ => not_transparent_of_opaque hopaque h0

/-! ### The palette of a state (R110, R114) -/

theorem State.palette_ne_nil {s : State} (h : s.plen ≠ 0) : s.palette ≠ [] := by
  intro hnil
  have hlen := s.palette_length
  rw [hnil] at hlen
  exact h (BitVec.eq_of_toNat_eq hlen.symm)

theorem plen_toNat_pos {s : State} (h : s.plen ≠ 0) : 0 < s.plen.toNat :=
  s.palette_length ▸ List.length_pos_iff.2 (State.palette_ne_nil h)

/-- The palette is PLEN and the entries below it (R110). -/
theorem State.palette_congr {s t : State} (hplen : s.plen = t.plen)
    (h : ∀ j, j < s.plen.toNat → s.palAt j = t.palAt j) : s.palette = t.palette := by
  rw [State.palette, State.palette, ← hplen]
  exact List.map_congr_left fun j hj => h j (List.mem_range.1 hj)

section
variable {s : State} (hp : s.plen ≠ 0)
include hp

theorem palette_oneBitAlpha_iff : (classify s.palette).2 = true ↔ Transparent s :=
  (classify_oneBitAlpha_iff (State.palette_ne_nil hp)).trans (s.forall_palette _)

theorem palette_noAlpha_iff : (classify s.palette).1 = true ↔ Binary s ∧ SomeOpaque s :=
  (classify_noAlpha_iff (State.palette_ne_nil hp)).trans (and_congr (s.forall_palette _) (s.exists_palette _))

theorem palette_rgbOnly_iff : rgbOnly s.palette = true ↔ Binary s :=
  (rgbOnly_iff (State.palette_ne_nil hp)).trans (s.forall_palette _)

end

/-- Settles O38: the flags read off the alphas below PLEN; with PLEN 0 the invariant leaves PCLASS only cleared. -/
theorem classifyCommand : Obligations.ClassifyCommand := by
  refine ⟨decode_classify_iff, classify_otherWordsRaise, fun s => ⟨exec_classify_raised, fun hp hs => ?_, fun hp => ?_⟩⟩
  · exact (PClass.word_eq_zero_iff _).2 (hs.classCurrent.resolve_right fun h => h.1 hp)
  · exact ⟨_, exec_classify_some hp, rfl, palette_noAlpha_iff hp, palette_oneBitAlpha_iff hp⟩

/-! ### The distances (R116) -/

theorem dist_rgb (c p : Word) : dist true c p = distRgb c p := rfl

theorem dist_argb (c p : Word) : dist false c p = distArgb c p := rfl

/-- The metric on four channels is the one on three and the alphas' squared difference. -/
theorem distArgb_eq (c p : Word) : distArgb c p = sqDiff (channelsOf c).a (channelsOf p).a + distRgb c p := by
  rw [distArgb, distRgb]
  omega

theorem sqDiff_eq_sqInt (x y : Byte) : (sqDiff x y : Int) = sqInt x.toNat y.toNat := sqDiff_cast x y

/-- The two metrics are exact on integers. -/
theorem dist_eq_distance (rgb : Bool) (c p : Word) : (dist rgb c p : Int) = distance rgb c p := by
  obtain ⟨hca, hcr, hcg, hcb⟩ := colorFieldsAreItsFourBytes.1 c
  obtain ⟨hpa, hpr, hpg, hpb⟩ := colorFieldsAreItsFourBytes.1 p
  have hrgb : (distRgb c p : Int) = sqInt (red c) (red p) + sqInt (green c) (green p) + sqInt (blue c) (blue p) := by
    simp only [distRgb, Nat.cast_add, sqDiff_eq_sqInt, hcr, hcg, hcb, hpr, hpg, hpb]
  cases rgb with
  | true => rw [dist_rgb, hrgb, distance, if_pos rfl, zero_add]
  | false =>
    rw [dist_argb, distArgb_eq, Nat.cast_add, hrgb, sqDiff_eq_sqInt, hca, hpa, distance, if_neg Bool.false_ne_true]
    simp only [add_assoc]

theorem distRgb_le (c p : Word) : distRgb c p ≤ 195075 := by
  have hr := sqDiff_le (channelsOf c).r (channelsOf p).r
  have hg := sqDiff_le (channelsOf c).g (channelsOf p).g
  have hb := sqDiff_le (channelsOf c).b (channelsOf p).b
  rw [distRgb]
  omega

theorem distArgb_le (c p : Word) : distArgb c p ≤ 260100 := by
  have ha := sqDiff_le (channelsOf c).a (channelsOf p).a
  have hrgb := distRgb_le c p
  rw [distArgb_eq]
  omega

/-- Settles O39: exact on integers, and bounded channel by channel. -/
theorem distancesAreExactAndBounded : Obligations.DistancesAreExactAndBounded := fun c p =>
  ⟨dist_eq_distance true c p, dist_eq_distance false c p, distRgb_le c p, distArgb_le c p,
    (distArgb_le c p).trans_lt (by decide)⟩

theorem sqDiff_eq_zero_iff (x y : Byte) : sqDiff x y = 0 ↔ x = y := by
  rw [← Int.natCast_eq_zero, sqDiff_cast, mul_self_eq_zero, sub_eq_zero, Int.natCast_inj, BitVec.toNat_inj]

theorem distRgb_self (p : Word) : distRgb p p = 0 := by
  simp [distRgb, sqDiff_eq_zero_iff]

theorem dist_self (rgb : Bool) (p : Word) : dist rgb p p = 0 := by
  cases rgb with
  | true => exact distRgb_self p
  | false => rw [dist_argb, distArgb_eq, distRgb_self, (sqDiff_eq_zero_iff _ _).2 rfl]

theorem distRgb_eq_of_distRgb_zero {p q : Word} (h : distRgb p q = 0) (c : Word) : distRgb c q = distRgb c p := by
  simp only [distRgb, Nat.add_eq_zero_iff, sqDiff_eq_zero_iff] at h
  obtain ⟨⟨hr, hg⟩, hb⟩ := h
  rw [distRgb, distRgb, hr, hg, hb]

/-- Entries at distance zero of each other are at the same distance of every color. -/
theorem dist_eq_of_dist_zero {rgb : Bool} {p q : Word} (h : dist rgb p q = 0) (c : Word) : dist rgb c q = dist rgb c p := by
  cases rgb with
  | true => exact distRgb_eq_of_distRgb_zero h c
  | false =>
    rw [dist_argb, distArgb_eq, Nat.add_eq_zero_iff, sqDiff_eq_zero_iff] at h
    rw [dist_argb, dist_argb, distArgb_eq, distArgb_eq, h.1, distRgb_eq_of_distRgb_zero h.2]

/-! ### The alpha-bucket filter (R117) -/

/-- Settles O40: the comparisons of alphas as comparisons of numbers. -/
theorem filterSkipsTheOtherBucket : Obligations.FilterSkipsTheOtherBucket := by
  intro c p ob
  simp [skipped, alphaOf_eq_iff, BitVec.le_def, BitVec.lt_def, alphaOf_toNat]

/-- On a palette whose classification is not one-bit-alpha nothing is skipped; on another every alpha is 0, and all of it is
skipped for an opaque source, none of it for a transparent one (R113, R117, R120). -/
theorem skipped_mem_iff {c p : Word} {P : List Word} (hp : p ∈ P) :
    skipped c p (classify P).2 = true ↔ (classify P).2 = true ∧ 128 ≤ alpha c := by
  rw [filterSkipsTheOtherBucket]
  refine and_congr_right fun hob => ?_
  have h0 := (classify_oneBitAlpha_iff (List.ne_nil_of_mem hp)).1 hob p hp
  omega

/-- The filter skips all entries of the palette or none. -/
theorem skipped_congr_mem (c : Word) {p q : Word} {P : List Word} (hp : p ∈ P) (hq : q ∈ P) :
    skipped c p (classify P).2 = skipped c q (classify P).2 := by
  rw [Bool.eq_iff_iff, skipped_mem_iff hp, skipped_mem_iff hq]

/-- An entry of the palette, as a source, has no entry skipped: where the filter acts, its alpha is 0. -/
theorem not_skipped_of_mem {p q : Word} {P : List Word} (hp : p ∈ P) (hq : q ∈ P) :
    skipped p q (classify P).2 = false := by
  rw [Bool.eq_false_iff, Ne, skipped_mem_iff hq]
  rintro ⟨hob, h128⟩
  have h0 := (classify_oneBitAlpha_iff (List.ne_nil_of_mem hp)).1 hob p hp
  omega

/-! ### The scan (R118) -/

/-- Entry `i` of the palette is the first of the nearest entries not skipped. -/
def FirstNearest (c : Word) (P : List Word) (i : Nat) : Prop :=
  ∃ p, P[i]? = some p ∧ skipped c p (classify P).2 = false ∧
    ∀ (j : Nat) (q : Word), P[j]? = some q → skipped c q (classify P).2 = false →
      dist (rgbOnly P) c p ≤ dist (rgbOnly P) c q ∧ (j < i → dist (rgbOnly P) c p < dist (rgbOnly P) c q)

/-- A first nearest entry comes no later than any other, so there is one at most. -/
theorem FirstNearest.le {c : Word} {P : List Word} {i j : Nat} (hi : FirstNearest c P i) (hj : FirstNearest c P j) :
    i ≤ j := by
  obtain ⟨p, hPi, hp, hmin⟩ := hi
  obtain ⟨q, hPj, hq, hmin'⟩ := hj
  by_contra hlt
  have hpq := (hmin j q hPj hq).2 (by omega)
  have hqp := (hmin' i p hPi hp).1
  omega

/-- What the scan answers: none when it skipped every entry, else the first nearest entry. -/
theorem nearest_cases (c : Word) (P : List Word) :
    (nearest c P = none ∧ ∀ p ∈ P, skipped c p (classify P).2 = true) ∨
      ∃ i, nearest c P = some i ∧ FirstNearest c P i := by
  have hbest := bestOf_scan c (classify P).2 (rgbOnly P) P [] none fun p hp => absurd hp List.not_mem_nil
  rw [List.nil_append, List.length_nil] at hbest
  rw [nearest]
  generalize scan c (classify P).2 (rgbOnly P) 0 P none = best at hbest ⊢
  cases best with
  | none => exact .inl ⟨rfl, hbest⟩
  | some b =>
    obtain ⟨p, hPi, hp, hd, hmin⟩ := hbest
    exact .inr ⟨b.1, rfl, p, hPi, hp, hd ▸ hmin⟩

theorem nearest_eq_none_iff (c : Word) (P : List Word) :
    nearest c P = none ↔ ∀ p ∈ P, skipped c p (classify P).2 = true := by
  rcases nearest_cases c P with ⟨hn, hall⟩ | ⟨i, hn, p, hPi, hp, -⟩
  · exact iff_of_true hn hall
  · rw [hn]
    refine iff_of_false (Option.some_ne_none i) fun hall => ?_
    rw [hall p (List.mem_of_getElem? hPi)] at hp
    cases hp

theorem nearest_eq_some_iff (c : Word) (P : List Word) (i : Nat) : nearest c P = some i ↔ FirstNearest c P i := by
  rcases nearest_cases c P with ⟨hn, hall⟩ | ⟨k, hn, hk⟩
  · rw [hn]
    refine iff_of_false (Option.some_ne_none i).symm ?_
    rintro ⟨p, hPi, hp, -⟩
    rw [hall p (List.mem_of_getElem? hPi)] at hp
    cases hp
  · rw [hn, Option.some_inj]
    constructor
    · rintro rfl
      exact hk
    · exact fun hi => le_antisymm (hk.le hi) (hi.le hk)

/-- Settles O41: the scan answers none or the first nearest entry, and there is at most one. -/
theorem scanFindsTheFirstNearest : Obligations.ScanFindsTheFirstNearest := fun c P =>
  ⟨nearest_eq_none_iff c P, nearest_eq_some_iff c P⟩

/-- The entry found is found again when it is the source (R122): it is at distance zero of itself, and an earlier entry at
distance zero of it would have been found in its place. -/
theorem nearest_of_nearest {c p : Word} {P : List Word} {i : Nat} (h : nearest c P = some i) (hPi : P[i]? = some p) :
    nearest p P = some i := by
  rw [nearest_eq_some_iff] at h ⊢
  obtain ⟨p', hPi', hp, hmin⟩ := h
  obtain rfl : p' = p := Option.some_inj.1 (hPi'.symm.trans hPi)
  have hmem := List.mem_of_getElem? hPi
  refine ⟨p', hPi, not_skipped_of_mem hmem hmem, fun j q hPj _ => ⟨?_, fun hj => ?_⟩⟩
  · exact (dist_self _ p').trans_le (Nat.zero_le _)
  · have hq := (skipped_congr_mem c (List.mem_of_getElem? hPj) hmem).trans hp
    have hlt := (hmin j q hPj hq).2 hj
    rw [dist_self, Nat.pos_iff_ne_zero]
    exact fun h0 => hlt.ne (dist_eq_of_dist_zero h0 c).symm

/-! ### MATCH (R119, R120, R123) -/

theorem palAt_mem_palette {s : State} {i : Nat} (hi : i < s.plen.toNat) : s.palAt i ∈ s.palette :=
  (s.mem_palette _).2 ⟨i, hi, rfl⟩

/-- The filter in terms of the palette the host wrote. -/
theorem skipped_palAt_iff {s : State} {i : Nat} (hp : s.plen ≠ 0) (hi : i < s.plen.toNat) :
    skipped s.color (s.palAt i) (classify s.palette).2 = true ↔ Transparent s ∧ 128 ≤ alpha s.color := by
  rw [skipped_mem_iff (palAt_mem_palette hi), palette_oneBitAlpha_iff hp]

/-- The candidates are the entries below PLEN that the filter does not skip. -/
theorem candidate_iff {s : State} (hp : s.plen ≠ 0) (i : Nat) :
    Candidate s i ↔ i < s.plen.toNat ∧ skipped s.color (s.palAt i) (classify s.palette).2 = false := by
  rw [Candidate, Bool.eq_false_iff, Ne, filterSkipsTheOtherBucket, palette_oneBitAlpha_iff hp]

theorem nearest_eq_none_of_no_candidate {s : State} (hp : s.plen ≠ 0) (h : ∀ i, ¬Candidate s i) :
    nearest s.color s.palette = none := by
  rw [nearest_eq_none_iff, s.forall_palette]
  intro i hi
  by_contra hskip
  exact h i ((candidate_iff hp i).2 ⟨hi, Bool.eq_false_iff.2 hskip⟩)

/-- The entry found is the first of the nearest candidates, by the distances of R116. -/
theorem candidate_of_nearest {s : State} {best : Nat} (hp : s.plen ≠ 0) (h : nearest s.color s.palette = some best) :
    Candidate s best ∧ ∀ j, Candidate s j →
      distance (rgbOnly s.palette) s.color (s.palAt best) ≤ distance (rgbOnly s.palette) s.color (s.palAt j) ∧
      (j < best →
        distance (rgbOnly s.palette) s.color (s.palAt best) < distance (rgbOnly s.palette) s.color (s.palAt j)) := by
  obtain ⟨p, hget, hskip, hmin⟩ := (nearest_eq_some_iff _ _ _).1 h
  obtain ⟨hlt, rfl⟩ := (s.palette_getElem?_iff best p).1 hget
  refine ⟨(candidate_iff hp best).2 ⟨hlt, hskip⟩, fun j hj => ?_⟩
  obtain ⟨hjlt, hjskip⟩ := (candidate_iff hp j).1 hj
  simp only [← dist_eq_distance, Nat.cast_le, Nat.cast_lt]
  exact hmin j _ ((s.palette_getElem?_iff j _).2 ⟨hjlt, rfl⟩) hjskip

/-- The index found is below PLEN, so below 256 where R18's bound holds. -/
theorem nearest_lt_256 {s : State} {best : Nat} (hbound : s.plen ≤ 256) (h : nearest s.color s.palette = some best) :
    best < 256 := by
  obtain ⟨p, hget, -⟩ := (nearest_eq_some_iff _ _ _).1 h
  have hlt := ((s.palette_getElem?_iff best p).1 hget).1
  have hbound' : s.plen.toNat ≤ 256 := hbound
  omega

/-- An index below 256 fits RAW. -/
theorem index_toNat {best : Nat} (h : best < 256) : (BitVec.ofNat 32 best).toNat = best := by
  rw [BitVec.toNat_ofNat]
  omega

/-- Settles O42: without a candidate the scan finds none, with one the first of the nearest. -/
theorem matchCommand : Obligations.MatchCommand := by
  refine ⟨decode_match_iff, match_otherWordsRaise, fun s rgb hbound hrgb => ⟨exec_match_raised, fun hp hnone => ?_, ?_⟩⟩
  · rw [exec_match_none hp (nearest_eq_none_of_no_candidate hp hnone), raise_eq_raised]
  · rintro ⟨i, hi⟩
    have hp : s.plen ≠ 0 := by
      intro h0
      have hlt := hi.1
      rw [h0] at hlt
      exact Nat.not_lt_zero i hlt
    obtain rfl : rgb = rgbOnly s.palette := Bool.eq_iff_iff.2 (hrgb.trans (palette_rgbOnly_iff hp).symm)
    cases hn : nearest s.color s.palette with
    | none =>
      obtain ⟨hlt, hskip⟩ := (candidate_iff hp i).1 hi
      have hall := (nearest_eq_none_iff _ _).1 hn _ (palAt_mem_palette hlt)
      rw [hall] at hskip
      cases hskip
    | some best =>
      obtain ⟨hbest, hmin⟩ := candidate_of_nearest hp hn
      have hlt := nearest_lt_256 hbound hn
      exact ⟨best, _, index_toNat hlt, hlt, hbest, hmin, exec_match_some hp hn⟩

/-- The scan finds nothing exactly for an opaque source on a palette of alpha 0 (R120). -/
theorem nearest_palette_eq_none_iff {s : State} (hp : s.plen ≠ 0) :
    nearest s.color s.palette = none ↔ Transparent s ∧ 128 ≤ alpha s.color := by
  rw [nearest_eq_none_iff, s.forall_palette]
  exact ⟨fun h => (skipped_palAt_iff hp (plen_toNat_pos hp)).1 (h 0 (plen_toNat_pos hp)),
    fun h i hi => (skipped_palAt_iff hp hi).2 h⟩

/-- Settles O43: what the scan finds decides what MATCH leaves in LAST. -/
theorem noCandidateExactlyForOpaqueSourceOnTransparentPalette :
    Obligations.NoCandidateExactlyForOpaqueSourceOnTransparentPalette := by
  intro s t h
  by_cases hp : s.plen = 0
  · rw [exec_match_empty hp] at h
    cases h
    exact ⟨iff_of_false (by simp) fun hc => hc.1 hp, fun hne => absurd hp hne, fun hne => absurd hp hne,
      fun hne => absurd hp hne⟩
  · refine ⟨?_, fun _ hc => ⟨?_, fun i hi => ?_⟩, fun _ hc i hi => (skipped_palAt_iff hp hi).2 hc,
      fun _ => (palette_rgbOnly_iff hp).2⟩
    · rw [and_iff_right hp, ← nearest_palette_eq_none_iff hp]
      cases hn : nearest s.color s.palette with
      | none => rw [exec_match_none hp hn] at h; cases h; exact iff_of_true rfl rfl
      | some best => rw [exec_match_some hp hn] at h; cases h; exact iff_of_false (by simp) (Option.some_ne_none best)
    · obtain ⟨best, hn⟩ := Option.ne_none_iff_exists'.1 (mt (nearest_palette_eq_none_iff hp).1 hc)
      rw [exec_match_some hp hn] at h
      cases h
      rfl
    · exact Bool.eq_false_iff.2 (mt (skipped_palAt_iff hp hi).1 hc)

/-- Settles O22: COLOR, PLEN and the entries below it are all that the scan reads. -/
theorem matchDependsOnColorAndPaletteOnly : Obligations.MatchDependsOnColorAndPaletteOnly := by
  intro s₁ s₂ t₁ t₂ hcolor hplen hpal h₁ h₂
  by_cases hp : s₁.plen = 0
  · rw [exec_match_empty hp] at h₁
    rw [exec_match_empty (hplen ▸ hp)] at h₂
    cases h₁
    cases h₂
    exact ⟨rfl, StatusCode.noConfusion⟩
  · have hsame : nearest s₂.color s₂.palette = nearest s₁.color s₁.palette := by
      rw [hcolor, State.palette_congr hplen hpal]
    cases hn : nearest s₁.color s₁.palette with
    | none =>
      rw [exec_match_none hp hn] at h₁
      rw [exec_match_none (hplen ▸ hp) (hsame.trans hn)] at h₂
      cases h₁
      cases h₂
      exact ⟨rfl, StatusCode.noConfusion⟩
    | some best =>
      rw [exec_match_some hp hn] at h₁
      rw [exec_match_some (hplen ▸ hp) (hsame.trans hn)] at h₂
      cases h₁
      cases h₂
      exact ⟨rfl, fun _ => rfl⟩

/-! ### LOOKUP (R121, R122) -/

theorem indexOf_toNat (raw : Word) : (indexOf raw).toNat = raw.toNat % 256 := by
  simp [indexOf]

theorem exec_lookup (s : State) :
    exec .lookup s = .next (s.setColor (s.palAt (s.raw.toNat % 256))).complete := by
  rw [← indexOf_toNat]
  rfl

/-- A palette entry is read at the address of its name (R42, R70). -/
theorem readWord_palName (s : State) (i : Byte) : s.readWord (RegName.pal i).addr = s.palAt i.toNat := by
  have ha := (target_eq_pal_iff _ i).2 (palName_addr_toNat i)
  rw [State.readWord, ha, State.readTarget]

/-- Settles O44: the entry RAW names, which the host reads at the address of that entry's name. -/
theorem lookupCommand : Obligations.LookupCommand := by
  refine ⟨decode_lookup_iff, lookup_otherWordsRaise, fun s => ⟨exec_lookup s, (RegName.pal (indexOf s.raw)).addr, ?_, ?_⟩⟩
  · rw [palName_addr_toNat, indexOf_toNat]
  · rw [readWord_palName, indexOf_toNat]

/-- A MATCH that completes found an entry, and wrote its index. -/
theorem exec_match_completed {s t : State} (h : exec .matchColor s = .next t) (hok : t.status.last = .ok) :
    s.plen ≠ 0 ∧ ∃ best, nearest s.color s.palette = some best ∧ t = (s.setRaw (BitVec.ofNat 32 best)).complete := by
  by_cases hp : s.plen = 0
  · rw [exec_match_empty hp] at h; cases h; cases hok
  · cases hn : nearest s.color s.palette with
    | none => rw [exec_match_none hp hn] at h; cases h; cases hok
    | some best => rw [exec_match_some hp hn] at h; cases h; exact ⟨hp, best, rfl, rfl⟩

/-- Settles O45: LOOKUP makes the entry found the source, for which the scan finds it again. -/
theorem lookupThenMatchGivesTheSameIndex : Obligations.LookupThenMatchGivesTheSameIndex := by
  intro s t hbound h hok
  obtain ⟨hp, best, hn, rfl⟩ := exec_match_completed h hok
  have hlt := nearest_lt_256 hbound hn
  obtain ⟨p, hget, -⟩ := (nearest_eq_some_iff _ _ _).1 hn
  have hlooked : s.palAt ((BitVec.ofNat 32 best).toNat % 256) = p := by
    rw [index_toNat hlt, Nat.mod_eq_of_lt hlt, ((s.palette_getElem?_iff best p).1 hget).2]
  have hagain : nearest (s.palAt ((BitVec.ofNat 32 best).toNat % 256)) s.palette = some best := by
    rw [hlooked]
    exact nearest_of_nearest hn hget
  exact ⟨_, _, exec_lookup _, exec_match_some hp hagain, rfl, rfl⟩

end Sys2Proof.Machine

/-! ## System family: NOP and CLRERR (spec/42_system.md) -/

namespace Sys2Proof.Machine

open Sys2Proof.Spec

/-! ### Command words (R61, R68) -/

theorem nop_otherWordsRaise : OtherWordsRaise 0 (· = 0) :=
  formatN_otherWordsRaise (i := .nop) fun v h => by rw [decodeOp, opField_toNat, h]; rfl

theorem clrErr_otherWordsRaise : OtherWordsRaise 11 (· = 11) :=
  formatN_otherWordsRaise (i := .clrErr) fun v h => by rw [decodeOp, opField_toNat, h]; rfl

theorem decode_nop_iff (v : Word) : decode v = some .nop ↔ v = 0 :=
  (decode_eq_some_iff v .nop).trans (and_iff_right rfl)

theorem decode_clrErr_iff (v : Word) : decode v = some .clrErr ↔ v = 11 :=
  (decode_eq_some_iff v .clrErr).trans (and_iff_right rfl)

/-! ### What the two commands do (R130, R131) -/

theorem exec_nop (s : State) : exec .nop s = .next s.complete := rfl

/-- Completing CLRERR writes the zero that its own write left in LAST. -/
theorem exec_clrErr (s : State) : exec .clrErr s = .next (s.setStatus { last := .ok, first := .ok }) := rfl

/-- A write to STATUS leaves every other register, the palette and the host side as they were. -/
theorem sameButStatus_setStatus (s : State) (u : Status) : SameButStatus s (s.setStatus u) :=
  ⟨rfl, rfl, rfl, rfl, rfl, s.setStatus_palAt u, rfl, rfl, rfl⟩

/-- Settles O46: NOP's only effect is the completion every command has (R72). -/
theorem nopCommand : Obligations.NopCommand :=
  ⟨decode_nop_iff, nop_otherWordsRaise, exec_nop⟩

/-- Settles O47: CLRERR's only effect is the write of both fields of STATUS. -/
theorem clrErrCommand : Obligations.ClrErrCommand :=
  ⟨decode_clrErr_iff, exec_clrErr, clrErr_otherWordsRaise⟩

/-- Settles O52: both commands only write STATUS, and NOP writes back the FIRST it found. -/
theorem statusOnlyFrame : Obligations.StatusOnlyFrame := by
  intro i s t hi h
  rcases hi with rfl | rfl
  · rw [exec_nop] at h
    cases h
    exact ⟨sameButStatus_setStatus s _, fun _ => rfl⟩
  · rw [exec_clrErr] at h
    cases h
    exact ⟨sameButStatus_setStatus s _, Instr.noConfusion⟩

end Sys2Proof.Machine

/-! ## Errors family: which command raises what, and what a failure changes (spec/60_exceptions.md) -/

namespace Sys2Proof.Machine

open Sys2Proof.Spec

/-! ### Which command raises which error (R142) -/

/-- The table of R142 with its conditions, for a command as a term: an immediate out of range, a palette of length 0, a scan
that skipped every entry. -/
def Raises (i : Instr) (s : State) : CmdError → Prop
  | .illegalCommand => i.wellFormed = false
  | .emptyPalette => (i = .classify ∨ i = .matchColor) ∧ s.plen = 0
  | .noCandidate => i = .matchColor ∧ s.plen ≠ 0 ∧ nearest s.color s.palette = none

/-- A command with an immediate out of range raises IllegalCommand (log 10); those without an immediate are always legal. -/
theorem exec_not_wellFormed {i : Instr} (s : State) (h : i.wellFormed = false) :
    exec i s = .next (s.raise .illegalCommand) := by
  cases i with
  | rescale | pack | unpack | encode | decode | setPlen => exact congrArg (runCommand s) (ifLegal_false _ h)
  | nop | luma | classify | matchColor | lookup | clrErr => cases h

/-- Each entry of the table is raised. -/
theorem Raises.exec {i : Instr} {s : State} {e : CmdError} (h : Raises i s e) : Machine.exec i s = .next (s.raise e) := by
  cases e with
  | illegalCommand => exact exec_not_wellFormed s h
  | emptyPalette =>
    obtain ⟨rfl | rfl, hp⟩ := h
    · exact exec_classify_empty hp
    · exact exec_match_empty hp
  | noCandidate =>
    obtain ⟨rfl, hp, hn⟩ := h
    exact exec_match_none hp hn

section
variable {i : Instr} {s t : State} {e : CmdError}

/-- The check of the immediates raises IllegalCommand alone. -/
theorem raises_of_runCommand_ifLegal {u : State} (h : runCommand s (ifLegal i u) = .next t)
    (hf : t.status.last = .failed e) : Raises i s e := by
  cases hi : i.wellFormed with
  | true => rw [ifLegal_true u hi] at h; cases h; cases hf
  | false => rw [ifLegal_false u hi] at h; cases h; cases hf; exact hi

/-- Nothing but the entries of the table is raised. -/
theorem raises_of_exec (h : exec i s = .next t) (hf : t.status.last = .failed e) : Raises i s e := by
  cases i with
  | rescale | pack | unpack | encode | decode | setPlen => exact raises_of_runCommand_ifLegal h hf
  | nop | luma | lookup | clrErr => cases h; cases hf
  | classify =>
    by_cases hp : s.plen = 0
    · rw [exec_classify_empty hp] at h; cases h; cases hf; exact ⟨.inl rfl, hp⟩
    · rw [exec_classify_some hp] at h; cases h; cases hf
  | matchColor =>
    by_cases hp : s.plen = 0
    · rw [exec_match_empty hp] at h; cases h; cases hf; exact ⟨.inr rfl, hp⟩
    · cases hn : nearest s.color s.palette with
      | none => rw [exec_match_none hp hn] at h; cases h; cases hf; exact ⟨rfl, hp, hn⟩
      | some best => rw [exec_match_some hp hn] at h; cases h; cases hf

/-- What a command leaves in LAST says which error it raised (R143). -/
theorem last_failed_iff_raises (h : exec i s = .next t) : t.status.last = .failed e ↔ Raises i s e := by
  refine ⟨raises_of_exec h, fun hr => ?_⟩
  rw [hr.exec] at h
  cases h
  rfl

end

/-- Of the state, the conditions read COLOR and the palette below PLEN only (R148). -/
theorem Raises.congr {i : Instr} {s₁ s₂ : State} {e : CmdError} (hcolor : s₁.color = s₂.color)
    (hplen : s₁.plen = s₂.plen) (hpalette : s₁.palette = s₂.palette) (h : Raises i s₁ e) : Raises i s₂ e := by
  cases e with
  | illegalCommand => exact h
  | emptyPalette => exact ⟨h.1, hplen ▸ h.2⟩
  | noCandidate => exact ⟨h.1, hplen ▸ h.2.1, hcolor ▸ hpalette ▸ h.2.2⟩

/-- The scan finds nothing exactly when there is no candidate (R118, R119). -/
theorem nearest_palette_eq_none_iff_no_candidate {s : State} (hp : s.plen ≠ 0) :
    nearest s.color s.palette = none ↔ ∀ i, ¬Candidate s i := by
  refine ⟨fun hn i hi => ?_, nearest_eq_none_of_no_candidate hp⟩
  obtain ⟨hlt, hskip⟩ := (candidate_iff hp i).1 hi
  have hall := (nearest_eq_none_iff _ _).1 hn _ (palAt_mem_palette hlt)
  rw [hall] at hskip
  cases hskip

/-- Settles O18: an illegal word raises IllegalCommand and nothing else; a legal one is a well-formed command, which raises
what the table says. -/
theorem errorsAriseExactlyAsListed : Obligations.ErrorsAriseExactlyAsListed := by
  intro w s t h
  rw [← decode_none_iff_illegal]
  cases hd : decode w with
  | none =>
    rw [execWord_illegal s hd] at h
    cases h
    simp
  | some i =>
    rw [execWord_legal s hd] at h
    simp only [last_failed_iff_raises h, Option.some_inj]
    refine ⟨iff_of_false (fun hi => ?_) (Option.some_ne_none i), Iff.rfl,
      and_congr_right fun _ => and_congr_right nearest_palette_eq_none_iff_no_candidate⟩
    exact Bool.false_ne_true (hi.symm.trans (decode_wellFormed hd))

/-! ### What a failure changes (R143) -/

/-- A word that leaves LAST at an error did nothing but raise it. -/
theorem execWord_failed {w : Word} {s t : State} {e : CmdError} (h : execWord w s = .next t)
    (hf : t.status.last = .failed e) : t = s.raise e := by
  cases hd : decode w with
  | none =>
    rw [execWord_illegal s hd] at h
    cases h
    cases hf
    rfl
  | some i =>
    rw [execWord_legal s hd] at h
    obtain ⟨e', rfl⟩ := exec_failed h (by simp [hf])
    cases hf
    rfl

/-- Settles O17: a failing word writes STATUS alone, by `raise`. -/
theorem failedCommandChangesOnlyStatus : Obligations.FailedCommandChangesOnlyStatus := by
  intro w s t e h hf
  obtain rfl := execWord_failed h hf
  have hcode : 1 ≤ code (.failed e) ∧ code (.failed e) ≤ 3 := by cases e <;> decide
  refine ⟨sameButStatus_setStatus s _, ?_, hcode.1, hcode.2, ?_⟩
  · rw [readWord_status, Status.word_toNat, State.raise_last]
    omega
  · rw [raise_eq_raised, raised]

/-! ### The same command again (R148) -/

/-- Settles O20: raising the error changes nothing its condition reads, and raising it twice is raising it once. -/
theorem reissuedFailureChangesNothing : Obligations.ReissuedFailureChangesNothing := by
  refine ⟨fun i s t h hf => ?_, fun i s₁ s₂ t₁ t₂ e hcolor hplen hpal h₁ h₂ hf => ?_⟩
  · obtain ⟨e, rfl⟩ := exec_failed h hf
    have hagain : Raises i (s.raise e) e := (raises_of_exec h rfl).congr rfl rfl rfl
    rw [hagain.exec, State.raise_raise]
  · exact (last_failed_iff_raises h₂).2 ((raises_of_exec h₁ hf).congr hcolor hplen (State.palette_congr hplen hpal))

end Sys2Proof.Machine

/-! ## Reset family: the state a reset leaves, its first commands, and the idle PCU (spec/70_reset_and_hazards.md) -/

namespace Sys2Proof.Machine

open Sys2Proof.Spec

/-! ### The state a reset leaves (R27, R160) -/

/-- What the reset state and the state of every later reset have in common: the values of R27, and no palette entry written.
Only the draw of PAL_RESET and the host's side may differ (logs 1 to 3). -/
structure State.ResetValues (r : State) : Prop where
  color : r.color = 0
  raw : r.raw = 0
  val : r.val = 0
  plen : r.plen = 0
  pclass : r.pclass = PClass.cleared
  status : r.status = { last := .ok, first := .ok }
  pal : r.pal = []

theorem State.ResetValues.reset : State.reset.ResetValues := ⟨rfl, rfl, rfl, rfl, rfl, rfl, rfl⟩

theorem State.ResetValues.afterReset (s : State) : s.afterReset.ResetValues := ⟨rfl, rfl, rfl, rfl, rfl, rfl, rfl⟩

/-- With no entry written, every entry reads as the draw in force (R27). -/
theorem State.ResetValues.palAt {r : State} (h : r.ResetValues) (i : Nat) : r.palAt i = Config.palReset r.palPast i :=
  r.palAt_unwritten i (by rw [h.pal]; rfl)

theorem State.ResetValues.status_word {r : State} (h : r.ResetValues) : r.status.word = 0 := by
  rw [h.status]
  rfl

/-- Settles O8: the reset move takes itself off the script and leaves the reset values. -/
theorem resetMoveGivesTheResetState : Obligations.ResetMoveGivesTheResetState := by
  intro s rest hs
  have h := State.ResetValues.afterReset (s.setScript rest)
  exact ⟨_, step_move s .reset rest hs, h.color, h.raw, h.val, h.plen, (PClass.word_eq_zero_iff _).2 h.pclass,
    h.status_word, h.palAt, rfl, rfl⟩

/-! ### Conversions of zero operands (R84, R87, R89, R90) -/

theorem channelsOf_zero : channelsOf 0 = ⟨0, 0, 0, 0⟩ := rfl

theorem pack_zero (w : Widths) : pack ⟨0, 0, 0, 0⟩ w = 0 := by
  simp [pack]

theorem unpack_zero (w : Widths) : unpack 0 w = ⟨0, 0, 0, 0⟩ := by
  simp [unpack]

/-- A zero channel of native width is zero, an absent one 255 (R90, R91). -/
theorem rescale_zero_toCanonical (w : Width) : (rescale 0 w 8).toNat = if w = 0 then 255 else 0 := by
  split
  case isTrue hw => exact rescale_absent_toNat hw
  case isFalse hw =>
    rw [rescale_zero hw (by decide) (by decide)]
    rfl

/-- Of a zero channel `pack` reads zero bits at every width: an absent channel's 255 has none of them (R84, R91). -/
theorem rescale_zero_toNative_mod {w : Width} (hw8 : w ≤ 8) : (rescale 0 8 w).toNat % 2 ^ w.toNat = 0 := by
  by_cases hw : w = 0
  · rw [hw]
    exact Nat.mod_one _
  · rw [rescale_zero (by decide) hw hw8]
    exact Nat.zero_mod _

/-- The color zero is encoded as zero through every legal tuple (R89). -/
theorem pack_toNative_zero {w : Widths} (hw : Legal w) : pack (toNative ⟨0, 0, 0, 0⟩ w) w = 0 := by
  obtain ⟨ha8, hr8, hg8, hb8⟩ := hw
  have masked {x : Width} (hx : x ≤ 8) : (rescale 0 8 x).toNat % 2 ^ x.toNat = (0 : Byte).toNat % 2 ^ x.toNat :=
    (rescale_zero_toNative_mod hx).trans (Nat.zero_mod _).symm
  rw [pack_congr (d := ⟨0, 0, 0, 0⟩) (masked ha8) (masked hr8) (masked hg8) (masked hb8), pack_zero]

/-! ### The first commands after reset (R161) -/

section
variable {r : State} (h : r.ResetValues)
include h

theorem State.ResetValues.exec_encode {w : Widths} (hw : Legal w) : ∃ t, exec (.encode w) r = .next t ∧ t.raw = 0 := by
  refine ⟨_, exec_encode_legal r hw, ?_⟩
  change pack (toNative (channelsOf r.color) w) w = 0
  rw [h.color, channelsOf_zero, pack_toNative_zero hw]

theorem State.ResetValues.exec_decode {w : Widths} (hw : Legal w) : ∃ t, exec (.decode w) r = .next t ∧
    alpha t.color = (if w.a = 0 then 255 else 0) ∧ red t.color = (if w.r = 0 then 255 else 0) ∧
    green t.color = (if w.g = 0 then 255 else 0) ∧ blue t.color = (if w.b = 0 then 255 else 0) := by
  have hexec := exec_decode_legal r hw
  rw [h.raw, unpack_zero] at hexec
  obtain ⟨ha, hr, hg, hb⟩ := channels_colorOf (toCanonical ⟨0, 0, 0, 0⟩ w)
  exact ⟨_, hexec, ha.trans (rescale_zero_toCanonical w.a), hr.trans (rescale_zero_toCanonical w.r),
    hg.trans (rescale_zero_toCanonical w.g), hb.trans (rescale_zero_toCanonical w.b)⟩

/-- The color zero is gray, so LUMA needs no weights. -/
theorem State.ResetValues.exec_luma : ∃ t, exec .luma r = .next t ∧ t.val = 0 := by
  refine ⟨_, Machine.exec_luma r, ?_⟩
  change luma (channelsOf r.color) = 0
  rw [h.color, channelsOf_zero, luma_gray ⟨rfl, rfl⟩]

theorem State.ResetValues.exec_lookup : ∃ t, exec .lookup r = .next t ∧ t.color = Config.palReset r.palPast 0 := by
  refine ⟨_, Machine.exec_lookup r, ?_⟩
  rw [State.complete_color, State.setColor_color, h.palAt, h.raw]
  rfl

end

/-- Settles O57: both kinds of state hold the reset values, and each command is a rule about those. -/
theorem firstCommandsAfterReset : Obligations.FirstCommandsAfterReset := by
  intro r hr
  have h : r.ResetValues := by
    rcases hr with rfl | ⟨s, rfl⟩
    · exact .reset
    · exact .afterReset s
  exact ⟨exec_match_raised h.plen, exec_classify_raised h.plen, fun _ => h.exec_encode, fun _ => h.exec_decode,
    h.exec_luma, h.exec_lookup, h.status_word, readWord_id r⟩

/-! ### The idle PCU (R171) -/

/-- Settles O15: a step with no move to perform answers the state it found. -/
theorem idleStepChangesNothing : Obligations.IdleStepChangesNothing := step_idle

end Sys2Proof.Machine
